-- ==== Sys2Proof/Word.lean ====
section
/-! DEFINITION. The two fixed widths of CTCP-CORE's data: the byte and the 32-bit word (rule R16). -/

namespace Sys2Proof

/-- A byte, 8 bits (R16). -/
abbrev Byte := BitVec 8

/-- A word, 32 bits: the width of every host register (R13, R16). -/
abbrev Word := BitVec 32

end Sys2Proof
end

