-- ==== Sys2Proof/Machine/HostOp.lean ====
section
/-! DEFINITION. What the outside does to the block: the host's register accesses (R108, R115), its polling
pseudo-operation (R112), and the platform's reset input (R330). These are the entries of State's input list. -/

namespace Sys2Proof.Machine

/-- One thing the outside does, in the one total order of R79. -/
inductive HostOp where
  /-- A read of `width` bits at byte offset `off` of the window (`RegRead`, R20, R115). -/
  | read (width off : Nat)
  /-- A write of `width` bits at byte offset `off`; for the one supported width, 32, `data` is the value
  (`RegWrite`, R20, R115). -/
  | write (width off : Nat) (data : Word)
  /-- The pseudo-operation `wait` (R112): read STATUS, again and again, until the value read has BUSY = 0. -/
  | wait
  /-- The outside lets one step pass without touching the block (R345: accesses may be at any distance). -/
  | idle
  /-- The platform takes reset (R330). -/
  | reset
deriving DecidableEq, Repr

/-- One register access as R109 writes it in 64 bits: a direction, a 14-bit offset and, for a write, the data. -/
inductive Transaction where
  /-- `rd`: DIR = 0. -/
  | rd (off : BitVec 14)
  /-- `wr`: DIR = 1. -/
  | wr (off : BitVec 14) (data : Word)
deriving DecidableEq, Repr

/-- The host operation a transaction stands for: a 32-bit access at its offset (R108, R109). -/
def Transaction.op : Transaction → HostOp
  | .rd off => .read 32 off.toNat
  | .wr off data => .write 32 off.toNat data

end Sys2Proof.Machine
end

