-- ==== Sys2Proof/Syntax.lean ====
section
/-! DEFINITION. The six commands of CTCP-CORE (R102), one constructor per row of spec/opcode_table.json. Every
operand is implicit (R103), so no constructor carries one. -/

namespace Sys2Proof

/-- The commands of the opcode map (R102). -/
inductive Instr where
  /-- aes.init: derive the AES key schedule from KEY and KEYLEN (R165). -/
  | aesInit
  /-- aes.enc: encrypt one block with the AES context (R186). -/
  | aesEnc
  /-- aes.dec: decrypt one block with the AES context (R205). -/
  | aesDec
  /-- cam.init: derive the Camellia key material and subkeys (R228). -/
  | camInit
  /-- cam.enc: encrypt one block with the Camellia context (R258). -/
  | camEnc
  /-- cam.dec: decrypt one block with the Camellia context (R259). -/
  | camDec
deriving DecidableEq, Repr

end Sys2Proof
end

