-- ==== Sys2Proof/WellFormed.lean ====
section
/-! DEFINITION. The checks on terms. A command has no operand field (R100, R103), so every `Instr` is well formed;
the checks are on a command word before it is decoded, on a host access, on a transaction word and on a key
string. -/

namespace Sys2Proof

/-- A command is well formed: it has no field that could be out of range (R103, R106). -/
abbrev Instr.WellFormed (_ : Instr) : Prop := True

/-- The RSVD field of a command word, bits [31:3], is 0 (R100). -/
def reservedClear (v : Word) : Bool := v.extractLsb' 3 29 == 0#29

/-- The OP field of a command word, bits [1:0], is not the illegal 0b00 (R100). -/
def opLegal (v : Word) : Bool := v.extractLsb' 0 2 != 0#2

/-- The command word is one of the six legal ones (R105, R106). -/
def wordWellFormed (v : Word) : Bool := reservedClear v && opLegal v

/-- The window supports this access: 32 bits wide, at a multiple of 4, below 0x3000 (R73). -/
def accessWellFormed (width off : Nat) : Bool := width == 32 && off % 4 == 0 && off < 0x3000

/-- A host operation's access, where it has one, is one the window supports (R73). -/
def Machine.HostOp.WellFormed : Machine.HostOp → Bool
  | .read width off => accessWellFormed width off
  | .write width off _ => accessWellFormed width off
  | .wait => true
  | .idle => true
  | .reset => true

/-- Bits [62:46] of a transaction word are zero (R109). -/
def transactionReservedClear (t : BitVec 64) : Bool := t.extractLsb' 46 17 == 0#17

/-- The DATA field of a read's transaction word is zero (R109). -/
def transactionDataClear (t : BitVec 64) : Bool := t.getLsbD 63 || t.extractLsb' 0 32 == 0#32

/-- The transaction word has the form R109 gives. -/
def transactionWellFormed (t : BitVec 64) : Bool := transactionReservedClear t && transactionDataClear t

/-- The argument of the pseudo-operation `key` has 1 to 32 bytes (R111). -/
def keyStringWellFormed (key : List Byte) : Bool := 1 ≤ key.length && key.length ≤ 32

end Sys2Proof
end

