-- ==== Sys2Proof/Decode.lean ====
section
/-! DEFINITION. The decoder of the command word (R101) and its encoder (R102), and the decoder and encoder of the
64-bit transaction word in which host programs are written (R109). Both decoders are total and reject by name. -/

namespace Sys2Proof

/-- Why a word decodes to ILLEGAL (R101, R105). The block reports both as ILLEGAL_COMMAND (R303). -/
inductive IllegalWord where
  /-- RSVD, bits [31:3], is not 0. Raised by `decode`; safe. -/
  | reservedBits
  /-- OP, bits [1:0], is 0b00. Raised by `decode`; safe. -/
  | illegalOp
deriving DecidableEq, Repr

/-- `decode(v)` of R101: the reserved field first, then OP, then the command that ALG and OP select. -/
def decode (v : Word) : Except IllegalWord Instr :=
  if v.extractLsb' 3 29 != 0#29 then .error .reservedBits
  else
    let alg := v.getLsbD 2
    match (v.extractLsb' 0 2).toNat with
    | 0 => .error .illegalOp
    | 1 => .ok (if alg then .camInit else .aesInit)
    | 2 => .ok (if alg then .camEnc else .aesEnc)
    | _ => .ok (if alg then .camDec else .aesDec)

/-- The CMD value of each command (R102). -/
def encode : Instr → Word
  | .aesInit => 0x00000001#32
  | .aesEnc => 0x00000002#32
  | .aesDec => 0x00000003#32
  | .camInit => 0x00000005#32
  | .camEnc => 0x00000006#32
  | .camDec => 0x00000007#32

/-- The instruction the decoder reads from an opcode-table word of `nbits` bits: every command is one 32-bit word
(R107), with the bits above `nbits` zero. -/
def decodeTableWord (nbits w : Nat) : Option Instr :=
  let bits := w % 2 ^ nbits
  if bits < 2 ^ 32 then (decode (BitVec.ofNat 32 bits)).toOption else none

/-- Why 64 bits are no transaction word (R109). -/
inductive BadTransaction where
  /-- Bits [62:46] are not all zero. Raised by `decodeTransaction`; safe. -/
  | reservedBits
  /-- DIR is 0 (a read) and DATA is not 0. Raised by `decodeTransaction`; safe. -/
  | readData
deriving DecidableEq, Repr

/-- The transaction a 64-bit word stands for: DIR [63], zero [62:46], OFF [45:32], DATA [31:0] (R109). -/
def decodeTransaction (t : BitVec 64) : Except BadTransaction Machine.Transaction :=
  if t.extractLsb' 46 17 != 0#17 then .error .reservedBits
  else if t.getLsbD 63 then .ok (.wr (t.extractLsb' 32 14) (t.extractLsb' 0 32))
  else if t.extractLsb' 0 32 != 0#32 then .error .readData
  else .ok (.rd (t.extractLsb' 32 14))

/-- The 64-bit word of a transaction (R109). -/
def encodeTransaction : Machine.Transaction → BitVec 64
  | .rd off => (0#1 ++ 0#17 ++ off ++ 0#32)
  | .wr off data => (1#1 ++ 0#17 ++ off ++ data)

end Sys2Proof
end

