-- ==== Sys2Proof/Machine/State.lean ====
section
/-! DEFINITION. All the state the spec gives CTCP-CORE (10_state.md), the model's own fields beside it, the reasons
a step can stop, and the state after reset (R331). -/

namespace Sys2Proof.Machine

/-- Why the machine stops: the model faults of R308. The list is closed. -/
inductive Fault where
  /-- UNSUPPORTED_ACCESS: a host access not 32 bits wide, not at a multiple of 4, or at or above 0x3000 (R73).
  The access records it and every later step but a reset stops with it. Safe: the spec gives the case no effect. -/
  | unsupportedAccess
  /-- WRITE_WHILE_BUSY: a host write to CMD, KEYLEN, KEYk or DINk while BUSY = 1 (R341).
  The write records it and every later step but a reset stops with it. Safe: the spec gives the case no effect. -/
  | writeWhileBusy
deriving DecidableEq, Repr

/-- Why an instruction has no meaning. No command of this block is refused. -/
inductive Refusal where
  /-- An instruction whose arm is not modelled yet. No arm of `exec` answers it; safe. -/
  | notModelled (mnemonic : String)
deriving DecidableEq, Repr

/-- The outcome of the last completed command, STATUS.ERRCODE (R33, R300). Codes 4 to 15 are never produced. -/
inductive ErrCode where
  /-- 0, NONE. -/
  | noError
  /-- 1, INVALID_KEY_LENGTH (R301). -/
  | invalidKeyLength
  /-- 2, NOT_INITIALIZED (R302). -/
  | notInitialized
  /-- 3, ILLEGAL_COMMAND (R303). -/
  | illegalCommand
deriving DecidableEq, Repr

/-- The sticky set of model faults recorded so far (R48), one mark per reason of R308. -/
structure FaultMark where
  unsupportedAccess : Bool
  writeWhileBusy : Bool
deriving DecidableEq, Repr

/-- The state of the block and of the model around it. -/
structure State where
  /-- STATUS.BUSY, bit 0 (R33): a command is latched and not yet completed. -/
  busy : Bool
  /-- STATUS.ERRCODE, bits [7:4] (R33). STATUS.ERROR is derived from it and has no store of its own. -/
  errcode : ErrCode
  /-- STATUS.AES_VALID, bit 8 (R33). -/
  aesValid : Bool
  /-- STATUS.CAM_VALID, bit 9 (R33). -/
  camValid : Bool
  /-- KEYLEN (R34). -/
  keylen : Word
  /-- KEY0..KEY7 (R36). -/
  key : Vector Word 8
  /-- DIN0..DIN3 (R37). -/
  din : Vector Word 4
  /-- DOUT0..DOUT3 (R38). -/
  dout : Vector Word 4
  /-- AES_NR (R39). -/
  aesNr : Word
  /-- CAM_NR (R40). -/
  camNr : Word
  /-- AES_RK0..AES_RK59 (R41). -/
  aesRk : Vector Word 60
  /-- CAM_KM0..CAM_KM15 (R42). -/
  camKm : Vector Word 16
  /-- CAM_SK0..CAM_SK67 (R43). -/
  camSk : Vector Word 68
  /-- PENDING (R45), internal: the command word of the last CMD write, meaningful only while `busy`. -/
  pending : Word
  /-- The model fault mark (R48). -/
  faults : FaultMark
  /-- The model's own: while `busy`, how many steps remain up to and including the completion step, a countdown of
  `LAT(cmd)` (R15, R340). -/
  latLeft : Nat
  /-- The model's own: how many free values have been drawn, so that the next one is fresh (R77). -/
  draws : Nat
  /-- The model's own: what the outside does next, oldest first (R79). -/
  inputs : List HostOp
  /-- The model's own: the values the host's reads have returned, oldest first (R108). -/
  observed : List Word
deriving DecidableEq, Repr

/-- The machine right after reset (R331), with nothing recorded, drawn, queued or observed. -/
def State.reset : State where
  busy := false
  errcode := .noError
  aesValid := false
  camValid := false
  keylen := 0#32
  key := Vector.replicate 8 0#32
  din := Vector.replicate 4 0#32
  dout := Vector.replicate 4 0#32
  aesNr := 0#32
  camNr := 0#32
  aesRk := Vector.replicate 60 0#32
  camKm := Vector.replicate 16 0#32
  camSk := Vector.replicate 68 0#32
  pending := 0#32
  faults := ⟨false, false⟩
  latLeft := 0
  draws := 0
  inputs := []
  observed := []

end Sys2Proof.Machine
end

