-- ==== Sys2Proof/Machine/Operands.lean ====
section
/-! DEFINITION. Every implicit operand of a command (R103, R104): the bytes of KEY, DIN and DOUT, and the big-endian
packing between bytes and words (R17, R72). -/

namespace Sys2Proof.Machine

/-- Byte j of a word, byte 0 being bits [31:24] (R72). -/
def wordByte (w : Word) (j : Nat) : Byte := w.extractLsb' (24 - 8 * j) 8

/-- The word whose bytes 0 to 3 are `b0` to `b3`: b0<<24 | b1<<16 | b2<<8 | b3 (R17). -/
def ofBytes (b0 b1 b2 b3 : Byte) : Word := b0 ++ b1 ++ b2 ++ b3

/-- `unbe32(w)` (R17): the four bytes of a word, most significant first. -/
def unbe32 (w : Word) : List Byte := [wordByte w 0, wordByte w 1, wordByte w 2, wordByte w 3]

/-- `be32(B, j)` (R17): the word whose bytes are B[j..j+3]. A byte beyond the string's end, which no rule reads,
is taken as 0. -/
def be32 (b : List Byte) (j : Nat) : Word :=
  ofBytes (b.getD j 0) (b.getD (j + 1) 0) (b.getD (j + 2) 0) (b.getD (j + 3) 0)

/-- A block of 16 bytes, indexed from 0 (R17). -/
abbrev Block := Vector Byte 16

/-- The bytes of four registers: B[4k + j] = Wk[31-8j : 24-8j] (R37, R38). -/
def blockOfWords (w : Vector Word 4) : Block :=
  Vector.ofFn fun i : Fin 16 => wordByte (w[i.val / 4]'(by omega)) (i.val % 4)

/-- The four registers of a block, packed big-endian (R37, R38, R187). -/
def wordsOfBlock (b : Block) : Vector Word 4 :=
  Vector.ofFn fun k : Fin 4 =>
    ofBytes (b[4 * k.val]'(by omega)) (b[4 * k.val + 1]'(by omega)) (b[4 * k.val + 2]'(by omega))
      (b[4 * k.val + 3]'(by omega))

/-- KEYB[0..31], the 32 key bytes KEY0..KEY7 hold (R36). -/
def keyBytes (key : Vector Word 8) : List Byte := key.toList.flatMap unbe32

/-- The key an INIT of length n reads: KEYB[0..n-1] only (R36, R103). -/
def keyString (key : Vector Word 8) (n : Nat) : List Byte := (keyBytes key).take n

end Sys2Proof.Machine
end

