-- ==== Sys2Proof/Config.lean ====
section
/-! DEFINITION. What an implementation or a platform fixes and the spec leaves OPEN (92_eei_decisions.md:
`WINDOW_BASE` and `LAT(cmd)`), and the unconstrained values the spec writes `draw()`. None has a body, so nothing
can be proved of their values. -/

namespace Sys2Proof.Config

/-- `draw()` (R20, R77): the n-th unconstrained value the block returns.
State's counter `draws` gives every draw an index of its own, so two reads may return different values.
Log entry 1. -/
opaque draw : Nat → Word

/-- `LAT(cmd)` beyond its least value 1 (R15, R340), for the command word latched when State's counter `draws`
stands at n and KEYLEN holds `keylen`: it may differ per command, per key length and per run (R346).
DESIGN CHOICE: it is a function of these three alone, so two runs that latch the same word with the same KEYLEN at the
same count have the same latency, where R346 lets them differ; and it depends on no key, block or context value.
Log entry 2. -/
opaque extraLatency (n : Nat) (cmd keylen : Word) : Nat

/-- `WINDOW_BASE` (R70): the window's base address in the host's address space.
Log entry 3. -/
opaque windowBase : Nat

end Sys2Proof.Config
end

