-- ==== Sys2Proof/Machine/Flags.lean ====
section
/-! DEFINITION. STATUS (R33), the one flag register of the block (R53): the code of each error, and the word a host
reads. -/

namespace Sys2Proof.Machine

/-- The four-bit code of an error (R300). -/
def ErrCode.code : ErrCode → BitVec 4
  | .noError => 0#4
  | .invalidKeyLength => 1#4
  | .notInitialized => 2#4
  | .illegalCommand => 3#4

/-- STATUS.ERROR, bit 1: reads as ERRCODE != 0 (R33). -/
def ErrCode.isError (e : ErrCode) : Bool := e.code != 0#4

/-- The STATUS layout (R33): reserved [31:10], CAM_VALID [9], AES_VALID [8], ERRCODE [7:4], reserved [3:2], ERROR [1],
BUSY [0]; both reserved fields read as 0. -/
def packStatus (camValid aesValid : Bool) (e : ErrCode) (busy : Bool) : Word :=
  0#22 ++ BitVec.ofBool camValid ++ BitVec.ofBool aesValid ++ e.code ++ 0#2 ++ BitVec.ofBool e.isError ++
    BitVec.ofBool busy

/-- The STATUS word a host reads while BUSY = 0 (R33). -/
def statusWord (s : State) : Word := packStatus s.camValid s.aesValid s.errcode s.busy

/-- What a read of STATUS returns while BUSY = 1: bit 0 is 1, every other bit is a draw (R77). -/
def busyStatusWord (drawn : Word) : Word := drawn ||| 0x00000001#32

end Sys2Proof.Machine
end

