-- ==== Sys2Proof/Machine/Ops.lean ====
section
/-! DEFINITION. The operations several instructions and host accesses share: ending a command with and without an
error (R46, R302, R304), latching a command word (R32, R306), reset (R330), and the model fault mark (R48). -/

namespace Sys2Proof.Machine

/-- `raise Error(code)` (R20): the block's whole "exception entry" (R304).
The completion step writes STATUS.ERRCODE and clears BUSY; every other update of the command is discarded (R302). -/
def raiseError (e : ErrCode) (s : State) : State := { s with errcode := e, busy := false }

/-- The end of a command that completes: ERRCODE is NONE and BUSY is 0 (R46). -/
def finish (s : State) : State := { s with errcode := .noError, busy := false }

/-- `LAT(cmd)` (R15, R340): at least one step, and otherwise open per command, key length and run (R346).
DESIGN CHOICE: a function of the count of draws, the command word and KEYLEN alone, so two runs that agree on these
three have the same latency (log entry 2). -/
def latency (n : Nat) (cmd keylen : Word) : Nat := Config.extraLatency n cmd keylen + 1

/-- A host write of v to CMD while BUSY = 0 (R32): v is latched into PENDING, BUSY becomes 1 and ERRCODE 0.
This is also the block's whole "return" from an error (R306).
The latency of this run of the command is drawn here, and the count moves on, so that the next one is fresh (R346). -/
def latchCommand (v : Word) (s : State) : State :=
  { s with
    pending := v, busy := true, errcode := .noError,
    latLeft := latency s.draws v s.keylen, draws := s.draws + 1 }

/-- The step `Reset` (R330): every register takes its reset value and a pending command is discarded (R333).
The fault mark stays (R48); so do the model's own record of inputs and observations and its count of draws. -/
def resetBlock (s : State) : State :=
  { State.reset with faults := s.faults, draws := s.draws, inputs := s.inputs, observed := s.observed }

/-- Adds a reason to the sticky fault mark (R48, R308). -/
def recordFault (f : Fault) (s : State) : State :=
  match f with
  | .unsupportedAccess => { s with faults := { s.faults with unsupportedAccess := true } }
  | .writeWhileBusy => { s with faults := { s.faults with writeWhileBusy := true } }

/-- A recorded fault, if there is one; a state with one is quiescent (R308). -/
def recordedFault (m : FaultMark) : Option Fault :=
  if m.unsupportedAccess then some .unsupportedAccess
  else if m.writeWhileBusy then some .writeWhileBusy
  else none

end Sys2Proof.Machine
end

