-- ==== Sys2Proof/Machine/Tables.lean ====
section
/-! DEFINITION. The shared ROMs (40_shared_tables.md): the GF(2^8) multiplier table, the AES and Camellia
substitution boxes, the round and key-derivation constants and the two subkey tables. A table is a constant of the
block, not state (R130). -/

namespace Sys2Proof.Machine

/-- Entry x of a 256-entry byte table printed as a grid of 16 rows (R131): row `x div 16`, column `x mod 16`. -/
def romByte (rows : List (BitVec 128)) (x : Byte) : Byte :=
  (rows.getD (x.toNat / 16) 0#128).extractLsb' (8 * (15 - x.toNat % 16)) 8

/-- The grid of ROM_GF_MUL2 (R132): row k holds entries 16k to 16k+15, column 0 in the top byte (R131). -/
def romGfMul2Rows : List (BitVec 128) :=
  [0x00020406080a0c0e10121416181a1c1e#128,
   0x20222426282a2c2e30323436383a3c3e#128,
   0x40424446484a4c4e50525456585a5c5e#128,
   0x60626466686a6c6e70727476787a7c7e#128,
   0x80828486888a8c8e90929496989a9c9e#128,
   0xa0a2a4a6a8aaacaeb0b2b4b6b8babcbe#128,
   0xc0c2c4c6c8caccced0d2d4d6d8dadcde#128,
   0xe0e2e4e6e8eaeceef0f2f4f6f8fafcfe#128,
   0x1b191f1d131117150b090f0d03010705#128,
   0x3b393f3d333137352b292f2d23212725#128,
   0x5b595f5d535157554b494f4d43414745#128,
   0x7b797f7d737177756b696f6d63616765#128,
   0x9b999f9d939197958b898f8d83818785#128,
   0xbbb9bfbdb3b1b7b5aba9afada3a1a7a5#128,
   0xdbd9dfddd3d1d7d5cbc9cfcdc3c1c7c5#128,
   0xfbf9fffdf3f1f7f5ebe9efede3e1e7e5#128]

/-- ROM_GF_MUL2[x], products by 0x02 in GF(2^8) (R132). -/
def romGfMul2 (x : Byte) : Byte := romByte romGfMul2Rows x

/-- The grid of ROM_AES_SBOX (R133): row k holds entries 16k to 16k+15, column 0 in the top byte (R131). -/
def romAesSboxRows : List (BitVec 128) :=
  [0x637c777bf26b6fc53001672bfed7ab76#128,
   0xca82c97dfa5947f0add4a2af9ca472c0#128,
   0xb7fd9326363ff7cc34a5e5f171d83115#128,
   0x04c723c31896059a071280e2eb27b275#128,
   0x09832c1a1b6e5aa0523bd6b329e32f84#128,
   0x53d100ed20fcb15b6acbbe394a4c58cf#128,
   0xd0efaafb434d338545f9027f503c9fa8#128,
   0x51a3408f929d38f5bcb6da2110fff3d2#128,
   0xcd0c13ec5f974417c4a77e3d645d1973#128,
   0x60814fdc222a908846eeb814de5e0bdb#128,
   0xe0323a0a4906245cc2d3ac629195e479#128,
   0xe7c8376d8dd54ea96c56f4ea657aae08#128,
   0xba78252e1ca6b4c6e8dd741f4bbd8b8a#128,
   0x703eb5664803f60e613557b986c11d9e#128,
   0xe1f8981169d98e949b1e87e9ce5528df#128,
   0x8ca1890dbfe6426841992d0fb054bb16#128]

/-- ROM_AES_SBOX[x], the AES substitution box (R133). -/
def romAesSbox (x : Byte) : Byte := romByte romAesSboxRows x

/-- The grid of ROM_AES_INV_SBOX (R134): row k holds entries 16k to 16k+15, column 0 in the top byte (R131). -/
def romAesInvSboxRows : List (BitVec 128) :=
  [0x52096ad53036a538bf40a39e81f3d7fb#128,
   0x7ce339829b2fff87348e4344c4dee9cb#128,
   0x547b9432a6c2233dee4c950b42fac34e#128,
   0x082ea16628d924b2765ba2496d8bd125#128,
   0x72f8f66486689816d4a45ccc5d65b692#128,
   0x6c704850fdedb9da5e154657a78d9d84#128,
   0x90d8ab008cbcd30af7e45805b8b34506#128,
   0xd02c1e8fca3f0f02c1afbd0301138a6b#128,
   0x3a9111414f67dcea97f2cfcef0b4e673#128,
   0x96ac7422e7ad3585e2f937e81c75df6e#128,
   0x47f11a711d29c5896fb7620eaa18be1b#128,
   0xfc563e4bc6d279209adbc0fe78cd5af4#128,
   0x1fdda8338807c731b11210592780ec5f#128,
   0x60517fa919b54a0d2de57a9f93c99cef#128,
   0xa0e03b4dae2af5b0c8ebbb3c83539961#128,
   0x172b047eba77d626e169146355210c7d#128]

/-- ROM_AES_INV_SBOX[x], the inverse AES substitution box (R134). -/
def romAesInvSbox (x : Byte) : Byte := romByte romAesInvSboxRows x

/-- The grid of ROM_CAM_SBOX1 (R136): row k holds entries 16k to 16k+15, column 0 in the top byte (R131). -/
def romCamSbox1Rows : List (BitVec 128) :=
  [0x70822cecb327c0e5e4855735ea0cae41#128,
   0x23ef6b934519a521ed0e4f4e1d6592bd#128,
   0x86b8af8f7ceb1fce3e30dc5f5ec50b1a#128,
   0xa6e139cad5475d3dd9015ad651566c4d#128,
   0x8b0d9a66fbccb02d74122b20f0b18499#128,
   0xdf4ccbc2347e76056db7a931d11704d7#128,
   0x14583a61de1b111c320f9c165318f222#128,
   0xfe44cfb2c3b57a912408e8a860fc6950#128,
   0xaad0a07da1896297545b1e95e0ff64d2#128,
   0x10c40048a3f775db8a03e6da093fdd94#128,
   0x875c8302cd4a90337367f6f39d7fbfe2#128,
   0x529bd826c837c63b81966f4b13be632e#128,
   0xe979a78c9f6ebc8e29f5f9b62ffdb459#128,
   0x7898066ae74671bad425ab4288a28dfa#128,
   0x7207b955f8eeac0a36492a683c38f1a4#128,
   0x4028d37bbbc943c115e3adf477c7809e#128]

/-- ROM_CAM_SBOX1[x], Camellia box 1 (R136). -/
def romCamSbox1 (x : Byte) : Byte := romByte romCamSbox1Rows x

/-- The grid of ROM_CAM_SBOX2 (R137): row k holds entries 16k to 16k+15, column 0 in the top byte (R131). -/
def romCamSbox2Rows : List (BitVec 128) :=
  [0xe00558d9674e81cbc90bae6ad5185d82#128,
   0x46dfd6278a324b42db1c9e9c3aca257b#128,
   0x0d715f1ff8d73e9d7c60b9bebc8b1634#128,
   0x4dc37295ab8eba7ab302b4ada2acd89a#128,
   0x171a35ccf799615ae8245640e1630933#128,
   0xbf98978568fcec0ada6f5362a32e08af#128,
   0x28b074c2bd362238641e392ca630e544#128,
   0xfd889f65876bf4234810d151c0f9d2a0#128,
   0x55a141fa4313c42fa8b63c2bc1ffc8a5#128,
   0x2089009047efeab71506cdb5127ebb29#128,
   0x0fb807049b942166e6ceede73bfe7fc5#128,
   0xa437b14c916e8d76032dde96267dc65c#128,
   0xd3f24f193fdc791d52ebf36d5efb69b2#128,
   0xf0310cd4cf8ce275a94a578411451bf5#128,
   0xe40e73aaf1dd59146c9254d07870e349#128,
   0x8050a7f6779386832ac75be9ee8f013d#128]

/-- ROM_CAM_SBOX2[x], Camellia box 2 (R137). -/
def romCamSbox2 (x : Byte) : Byte := romByte romCamSbox2Rows x

/-- The grid of ROM_CAM_SBOX3 (R138): row k holds entries 16k to 16k+15, column 0 in the top byte (R131). -/
def romCamSbox3Rows : List (BitVec 128) :=
  [0x38411676d99360f272c2ab9a750657a0#128,
   0x91f7b5c9a28cd290f607a7278eb249de#128,
   0x435cd7c73ef58f671f186eaf2fe2850d#128,
   0x53f09c65eaa3ae9eec802d6ba82b36a6#128,
   0xc5864d33fd6658963a09951078d842cc#128,
   0xef26e5611a3f3b82b6dbd498e88b02eb#128,
   0x0a2c1db06f8d880e19874e0ba90c7911#128,
   0x7f22e759e1da3dc812047454307eb428#128,
   0x556850bed0c431cb2aad0fca70ff3269#128,
   0x08620024d1fbbaed4581736d849fee4a#128,
   0xc32ec101e6254899b9b37bf9cebfdf71#128,
   0x29cd6c13649b639dc04bb7a5895fb117#128,
   0xf4bcd346cf375e4794fafc5b97fe5aac#128,
   0x3c4c0335f323b85d6a92d5214451c67d#128,
   0x3983dcaa7c7756051ba415341e1cf852#128,
   0x2014e9bddde4a1e08af1d67abbe3404f#128]

/-- ROM_CAM_SBOX3[x], Camellia box 3 (R138). -/
def romCamSbox3 (x : Byte) : Byte := romByte romCamSbox3Rows x

/-- The grid of ROM_CAM_SBOX4 (R139): row k holds entries 16k to 16k+15, column 0 in the top byte (R131). -/
def romCamSbox4Rows : List (BitVec 128) :=
  [0x702cb3c0e457eaae236b45a5ed4f1d92#128,
   0x86af7c1f3edc5e0ba639d55dd95a516c#128,
   0x8b9afbb0742bf084dfcb34766da9d104#128,
   0x143ade11329c53f2fecfc37a24e86069#128,
   0xaaa0a162541ee0641000a3758ae609dd#128,
   0x8783cd9073f69dbf52d8c8c6816f1363#128,
   0xe9a79fbc29f92fb47806e771d4ab888d#128,
   0x72b9f8ac362a3cf140d3bb4315ad7780#128,
   0x82ec27e585350c41ef9319210e4e65bd#128,
   0xb88febce305fc51ae1ca473d01d6564d#128,
   0x0d66cc2d1220b1994cc27e05b73117d7#128,
   0x58611b1c0f16182244b2b59108a8fc50#128,
   0xd07d89975b95ffd2c448f7db03da3f94#128,
   0x5c024a3367f37fe29b26373b964bbe2e#128,
   0x798c6e8ef5b6fd59986a46ba2542a2fa#128,
   0x0755ee0a496838a4287bc9c1e3f4c79e#128]

/-- ROM_CAM_SBOX4[x], Camellia box 4 (R139). -/
def romCamSbox4 (x : Byte) : Byte := romByte romCamSbox4Rows x

/-- ROM_AES_RCON[0..10] (R135). -/
def romAesRconList : List Byte :=
  [0x00#8, 0x01#8, 0x02#8, 0x04#8, 0x08#8, 0x10#8, 0x20#8, 0x40#8, 0x80#8, 0x1B#8, 0x36#8]

/-- ROM_AES_RCON[j] (R135). The table ends at 10 and no rule reads beyond it. -/
def romAesRcon (j : Nat) : Byte := romAesRconList.getD j 0#8

/-- ROM_CAM_SIGMA[0..11] (R140). -/
def romCamSigmaList : List Word :=
  [0xA09E667F#32, 0x3BCC908B#32, 0xB67AE858#32, 0x4CAA73B2#32, 0xC6EF372F#32, 0xE94F82BE#32,
   0x54FF53A5#32, 0xF1D36F1C#32, 0x10E527FA#32, 0xDE682D1D#32, 0xB05688C2#32, 0xB3E6C1FD#32]

/-- ROM_CAM_SIGMA[i] (R140). The table ends at 11 and no rule reads beyond it. -/
def romCamSigma (i : Nat) : Word := romCamSigmaList.getD i 0#32

/-- The quadruple a subkey-table entry rotates (R141). -/
inductive QuadName where
  | kl
  | kr
  | ka
  | kb
deriving DecidableEq, Repr

/-- The half of the rotated quadruple an entry selects (R141): `high` is the spec's L, `low` its R. -/
inductive Half where
  | high
  | low
deriving DecidableEq, Repr

/-- The value of a half-selector: L is 0, R is 64 (R141). -/
def Half.offset : Half → Nat
  | .high => 0
  | .low => 64

/-- One entry (index, quad, rot, half) of a subkey table (R141). -/
structure SubkeyEntry where
  index : Nat
  quad : QuadName
  rot : Nat
  half : Half
deriving DecidableEq, Repr

/-- The total shift of an entry, `rot + half` (R224, R225). -/
def SubkeyEntry.shift (e : SubkeyEntry) : Nat := e.rot + e.half.offset

/-- ROM_CAM_KS1: the 26 entries for 16-byte keys (R142). -/
def romCamKs1 : List SubkeyEntry :=
  [⟨0, .kl, 0, .high⟩, ⟨2, .kl, 0, .low⟩, ⟨4, .ka, 0, .high⟩, ⟨6, .ka, 0, .low⟩,
   ⟨8, .kl, 15, .high⟩, ⟨10, .kl, 15, .low⟩, ⟨12, .ka, 15, .high⟩, ⟨14, .ka, 15, .low⟩,
   ⟨16, .ka, 30, .high⟩, ⟨18, .ka, 30, .low⟩, ⟨20, .kl, 45, .high⟩, ⟨22, .kl, 45, .low⟩,
   ⟨24, .ka, 45, .high⟩, ⟨26, .kl, 60, .low⟩, ⟨28, .ka, 60, .high⟩, ⟨30, .ka, 60, .low⟩,
   ⟨32, .kl, 77, .high⟩, ⟨34, .kl, 77, .low⟩, ⟨36, .kl, 94, .high⟩, ⟨38, .kl, 94, .low⟩,
   ⟨40, .ka, 94, .high⟩, ⟨42, .ka, 94, .low⟩, ⟨44, .kl, 111, .high⟩, ⟨46, .kl, 111, .low⟩,
   ⟨48, .ka, 111, .high⟩, ⟨50, .ka, 111, .low⟩]

/-- ROM_CAM_KS2: the 34 entries for 24- and 32-byte keys (R143). -/
def romCamKs2 : List SubkeyEntry :=
  [⟨0, .kl, 0, .high⟩, ⟨2, .kl, 0, .low⟩, ⟨4, .kb, 0, .high⟩, ⟨6, .kb, 0, .low⟩,
   ⟨8, .kr, 15, .high⟩, ⟨10, .kr, 15, .low⟩, ⟨12, .ka, 15, .high⟩, ⟨14, .ka, 15, .low⟩,
   ⟨16, .kr, 30, .high⟩, ⟨18, .kr, 30, .low⟩, ⟨20, .kb, 30, .high⟩, ⟨22, .kb, 30, .low⟩,
   ⟨24, .kl, 45, .high⟩, ⟨26, .kl, 45, .low⟩, ⟨28, .ka, 45, .high⟩, ⟨30, .ka, 45, .low⟩,
   ⟨32, .kl, 60, .high⟩, ⟨34, .kl, 60, .low⟩, ⟨36, .kr, 60, .high⟩, ⟨38, .kr, 60, .low⟩,
   ⟨40, .kb, 60, .high⟩, ⟨42, .kb, 60, .low⟩, ⟨44, .kl, 77, .high⟩, ⟨46, .kl, 77, .low⟩,
   ⟨48, .ka, 77, .high⟩, ⟨50, .ka, 77, .low⟩, ⟨52, .kr, 94, .high⟩, ⟨54, .kr, 94, .low⟩,
   ⟨56, .ka, 94, .high⟩, ⟨58, .ka, 94, .low⟩, ⟨60, .kl, 111, .high⟩, ⟨62, .kl, 111, .low⟩,
   ⟨64, .kb, 111, .high⟩, ⟨66, .kb, 111, .low⟩]

end Sys2Proof.Machine
end

