-- ==== Sys2Proof/Machine/Aes.lean ====
section
/-! DEFINITION. The AES engines: the key-schedule expander (41_aes_key_schedule.md), the forward round engine
(42_aes_encrypt.md) and the inverse round engine (43_aes_decrypt.md), and the meanings of aes.init, aes.enc and
aes.dec. -/

namespace Sys2Proof.Machine

/-- `SubWord(w)` (R160). -/
def subWord (w : Word) : Word :=
  ofBytes (romAesSbox (wordByte w 0)) (romAesSbox (wordByte w 1)) (romAesSbox (wordByte w 2))
    (romAesSbox (wordByte w 3))

/-- `RotWord(w)` = rotl_32(w, 8) (R161). -/
def rotWord (w : Word) : Word := w.rotateLeft 8

/-- `RconWord(j)` (R162): the round constant in the word's first byte, bits [31:24]. -/
def rconWord (j : Nat) : Word := ofBytes (romAesRcon j) 0#8 0#8 0#8

/-- The `temp` that R163 XORs into w[i], from w[i-1]. -/
def expansionTemp (nk i : Nat) (prev : Word) : Word :=
  if i % nk = 0 then subWord (rotWord prev) ^^^ rconWord (i / nk)
  else if 6 < nk ∧ i % nk = 4 then subWord prev
  else prev

/-- Appends `n` words to the words `w` already expanded: w[i] = w[i-Nk] ^ temp with i the length so far (R163). -/
def expandWords (nk : Nat) : Nat → List Word → List Word
  | 0, w => w
  | n + 1, w =>
    let i := w.length
    expandWords nk n (w ++ [w.getD (i - nk) 0#32 ^^^ expansionTemp nk i (w.getD (i - 1) 0#32)])

/-- `KeyExpansion(K, Nk, Nr)` (R163): the key's Nk words, then words Nk .. 4(Nr+1)-1. -/
def keyExpansion (k : List Byte) (nk nr : Nat) : List Word :=
  expandWords nk (4 * (nr + 1) - nk) ((List.range nk).map fun i => be32 k (4 * i))

/-- `AesParams(n)` = (Nk, Nr) (R11, R164), or nothing for an unsupported length. The whole 32-bit value is compared. -/
def aesParams (n : Word) : Option (Nat × Nat) :=
  if n = 16#32 then some (4, 10)
  else if n = 24#32 then some (6, 12)
  else if n = 32#32 then some (8, 14)
  else none

/-- Schedule placement (R166): the words of the schedule, then zeros up to AES_RK59. -/
def placeSchedule (w : List Word) : Vector Word 60 := Vector.ofFn fun i : Fin 60 => w.getD i.val 0#32

/-- The AES state grid s[r][c], row r and column c (R180). -/
abbrev Grid := Vector (Vector Byte 4) 4

/-- The grid whose entry at row r, column c is `f r c`. -/
def gridOf (f : Fin 4 → Fin 4 → Byte) : Grid := Vector.ofFn fun r => Vector.ofFn fun c => f r c

/-- s[r][c] (R180). -/
def gridAt (s : Grid) (r c : Fin 4) : Byte := s[r][c]

/-- `ToState(B)`: s[r][c] = B[r + 4c] (R180). -/
def toState (b : Block) : Grid := gridOf fun r c => b[r.val + 4 * c.val]'(by omega)

/-- `FromState(s)`: B[r + 4c] = s[r][c] (R180). -/
def fromState (s : Grid) : Block :=
  Vector.ofFn fun i : Fin 16 => gridAt s ⟨i.val % 4, by omega⟩ ⟨i.val / 4, by omega⟩

/-- `SubBytes(s)` (R181). -/
def subBytes (s : Grid) : Grid := gridOf fun r c => romAesSbox (gridAt s r c)

/-- `ShiftRows(s)`: s'[r][c] = s[r][(c + r) mod 4] (R182). -/
def shiftRows (s : Grid) : Grid := gridOf fun r c => gridAt s r (c + r)

/-- `MixColumns(s)`: row i of a column becomes p ^ b_i ^ mul2[b_i ^ b_(i+1 mod 4)], p the XOR of the column (R183). -/
def mixColumns (s : Grid) : Grid := gridOf fun i c =>
  let p := gridAt s 0 c ^^^ gridAt s 1 c ^^^ gridAt s 2 c ^^^ gridAt s 3 c
  p ^^^ gridAt s i c ^^^ romGfMul2 (gridAt s i c ^^^ gridAt s (i + 1) c)

/-- Word k of the round-key file. Beyond AES_RK59, which no reachable round count addresses, it reads 0 (log entry
7). -/
def roundKeyWord (rk : Vector Word 60) (k : Nat) : Word := rk.toList.getD k 0#32

/-- `AddRoundKey(s, r)`: column c is XORed with AES_RK[4r + c], its byte 0 into row 0 (R184). -/
def addRoundKey (rk : Vector Word 60) (r : Nat) (s : Grid) : Grid :=
  gridOf fun i c => gridAt s i c ^^^ wordByte (roundKeyWord rk (4 * r + c.val)) i.val

/-- A middle round of `Cipher` (R185). -/
def cipherRound (rk : Vector Word 60) (s : Grid) (r : Nat) : Grid :=
  addRoundKey rk r (mixColumns (shiftRows (subBytes s)))

/-- `Cipher(B, Nr)` (R185): the middle rounds are r = 1 .. Nr-1, in ascending order. -/
def cipher (rk : Vector Word 60) (nr : Nat) (b : Block) : Block :=
  let s := addRoundKey rk 0 (toState b)
  let s := (List.range' 1 (nr - 1)).foldl (cipherRound rk) s
  fromState (addRoundKey rk nr (shiftRows (subBytes s)))

/-- `InvSubBytes(s)` (R200). -/
def invSubBytes (s : Grid) : Grid := gridOf fun r c => romAesInvSbox (gridAt s r c)

/-- `InvShiftRows(s)`: s'[r][c] = s[r][(c - r) mod 4] (R201). -/
def invShiftRows (s : Grid) : Grid := gridOf fun r c => gridAt s r (c - r)

/-- `InvMixColumns(s)` by the source's formula (R202): rows 0 and 2 use p, rows 1 and 3 use q2. -/
def invMixColumns (s : Grid) : Grid := gridOf fun i c =>
  let x := gridAt s 0 c ^^^ gridAt s 1 c ^^^ gridAt s 2 c ^^^ gridAt s 3 c
  let q := x ^^^ romGfMul2 (romGfMul2 (romGfMul2 x))
  let p := q ^^^ romGfMul2 (romGfMul2 (gridAt s 0 c ^^^ gridAt s 2 c))
  let q2 := q ^^^ romGfMul2 (romGfMul2 (gridAt s 1 c ^^^ gridAt s 3 c))
  (if i.val % 2 = 0 then p else q2) ^^^ gridAt s i c ^^^ romGfMul2 (gridAt s i c ^^^ gridAt s (i + 1) c)

/-- A middle round of `InvCipher` (R203). -/
def invCipherRound (rk : Vector Word 60) (s : Grid) (r : Nat) : Grid :=
  invMixColumns (addRoundKey rk r (invSubBytes (invShiftRows s)))

/-- `InvCipher(B, Nr)` (R203): the middle rounds are r = Nr-1 downto 1, exactly Nr-1 of them (R21). -/
def invCipher (rk : Vector Word 60) (nr : Nat) (b : Block) : Block :=
  let s := addRoundKey rk nr (toState b)
  let s := (List.range' 1 (nr - 1)).reverse.foldl (invCipherRound rk) s
  fromState (addRoundKey rk 0 (invSubBytes (invShiftRows s)))

/-- The AES context a successful aes.init leaves (R165, R166): the schedule file and the round count. -/
def aesContext (key : Vector Word 8) (n nk nr : Nat) : Vector Word 60 × Word :=
  (placeSchedule (keyExpansion (keyString key n) nk nr), BitVec.ofNat 32 nr)

/-- aes.init (R165). -/
def execAesInit (s : State) : Host.Outcome State Fault Refusal :=
  match aesParams s.keylen with
  | none => .next (raiseError .invalidKeyLength s)
  | some (nk, nr) =>
    let ctx := aesContext s.key s.keylen.toNat nk nr
    .next (finish { s with aesRk := ctx.1, aesNr := ctx.2, aesValid := true })

/-- aes.enc (R186). -/
def execAesEnc (s : State) : Host.Outcome State Fault Refusal :=
  if s.aesValid then
    .next (finish { s with dout := wordsOfBlock (cipher s.aesRk s.aesNr.toNat (blockOfWords s.din)) })
  else .next (raiseError .notInitialized s)

/-- aes.dec (R205). -/
def execAesDec (s : State) : Host.Outcome State Fault Refusal :=
  if s.aesValid then
    .next (finish { s with dout := wordsOfBlock (invCipher s.aesRk s.aesNr.toNat (blockOfWords s.din)) })
  else .next (raiseError .notInitialized s)

end Sys2Proof.Machine
end

