-- ==== Sys2Proof/Machine/Camellia.lean ====
section
/-! DEFINITION. The Camellia engine: key-material derivation and subkey extraction (44_camellia_key_schedule.md), the
Feistel rounds with their FL layers (45_camellia_cipher.md), and the meanings of cam.init, cam.enc and cam.dec. -/

namespace Sys2Proof.Machine

/-- The Camellia state: two 64-bit halves L = l1:l2 and R = r1:r2 (R250). -/
structure Halves where
  l1 : Word
  l2 : Word
  r1 : Word
  r2 : Word
deriving DecidableEq, Repr

/-- `CamS(x1, x2)` (R251): boxes 1, 2, 3, 4 on the left word's bytes, 2, 3, 4, 1 on the right word's. -/
def camS (x1 x2 : Word) : Word × Word :=
  (ofBytes (romCamSbox1 (wordByte x1 0)) (romCamSbox2 (wordByte x1 1)) (romCamSbox3 (wordByte x1 2))
      (romCamSbox4 (wordByte x1 3)),
    ofBytes (romCamSbox2 (wordByte x2 0)) (romCamSbox3 (wordByte x2 1)) (romCamSbox4 (wordByte x2 2))
      (romCamSbox1 (wordByte x2 3)))

/-- `CamP(zl, zr)` (R252): each line uses the values the line before it left. -/
def camP (zl zr : Word) : Word × Word :=
  let zl := zl ^^^ zr.rotateLeft 8
  let zr := zr ^^^ zl.rotateLeft 16
  let zl := zl ^^^ zr.rotateRight 8
  let zr := zr ^^^ zl.rotateRight 8
  (zl, zr)

/-- `CamF(x1, x2, k1, k2)` (R253): the high word of the result is the final zr. -/
def camF (x1 x2 k1 k2 : Word) : Word × Word :=
  let z := camS (x1 ^^^ k1) (x2 ^^^ k2)
  let z := camP z.1 z.2
  (z.2, z.1)

/-- `CamRound` (R254): new L = R ^ F(L, k), new R = old L. -/
def camRound (h : Halves) (k1 k2 : Word) : Halves :=
  let f := camF h.l1 h.l2 k1 k2
  ⟨h.r1 ^^^ f.1, h.r2 ^^^ f.2, h.l1, h.l2⟩

/-- `CamFL(xl, xr, kl, kr)` (R255): the second line uses the xr just written. -/
def camFL (xl xr kl kr : Word) : Word × Word :=
  let xr := xr ^^^ (xl &&& kl).rotateLeft 1
  let xl := xl ^^^ (xr ||| kr)
  (xl, xr)

/-- `CamFLInv(yl, yr, kl, kr)` (R256): the second line uses the yl just written. -/
def camFLInv (yl yr kl kr : Word) : Word × Word :=
  let yl := yl ^^^ (yr ||| kr)
  let yr := yr ^^^ (yl &&& kl).rotateLeft 1
  (yl, yr)

/-- A 128-bit quadruple (q0, q1, q2, q3), q0 most significant (R17). -/
structure Quad where
  q0 : Word
  q1 : Word
  q2 : Word
  q3 : Word
deriving DecidableEq, Repr

/-- q[k mod 4] (R224). -/
def Quad.word (q : Quad) (k : Nat) : Word :=
  match k % 4 with
  | 0 => q.q0
  | 1 => q.q1
  | 2 => q.q2
  | _ => q.q3

/-- The XOR of two quadruples, word by word. -/
def Quad.xor (a b : Quad) : Quad := ⟨a.q0 ^^^ b.q0, a.q1 ^^^ b.q1, a.q2 ^^^ b.q2, a.q3 ^^^ b.q3⟩

/-- The key material: the four quadruples KL, KR, KA and KB (R42). -/
structure KeyMaterial where
  kl : Quad
  kr : Quad
  ka : Quad
  kb : Quad
deriving DecidableEq, Repr

/-- The quadruple a subkey-table entry names (R226). -/
def KeyMaterial.quad (km : KeyMaterial) : QuadName → Quad
  | .kl => km.kl
  | .kr => km.kr
  | .ka => km.ka
  | .kb => km.kb

/-- The four words of a quadruple, q0 first. -/
def Quad.words (q : Quad) : List Word := [q.q0, q.q1, q.q2, q.q3]

/-- CAM_KM0..CAM_KM15 = KL, KR, KA, KB (R42, R229). -/
def KeyMaterial.file (km : KeyMaterial) : Vector Word 16 :=
  Vector.ofFn fun i : Fin 16 => (km.kl.words ++ km.kr.words ++ km.ka.words ++ km.kb.words).getD i.val 0#32

/-- `CamParams(n)` = (nr, N) (R12, R220), or nothing for an unsupported length. The whole 32-bit value is compared. -/
def camParams (n : Word) : Option (Nat × Nat) :=
  if n = 16#32 then some (18, 52)
  else if n = 24#32 then some (24, 68)
  else if n = 32#32 then some (24, 68)
  else none

/-- `LoadKeyMaterial(K)` (R221): the pair (KL, KR), from the key overlaid on 64 zero bytes; a 24-byte key gives KR its
complemented second half (90_conflicts.md C3). -/
def loadKeyMaterial (k : List Byte) : Quad × Quad :=
  let raw := k ++ List.replicate (64 - k.length) 0#8
  let kr4 := be32 raw 16
  let kr5 := be32 raw 20
  (⟨be32 raw 0, be32 raw 4, be32 raw 8, be32 raw 12⟩,
    if k.length = 24 then ⟨kr4, kr5, ~~~kr4, ~~~kr5⟩ else ⟨kr4, kr5, be32 raw 24, be32 raw 28⟩)

/-- The halves of a quadruple (R250) and the quadruple of two halves (R223). -/
def Quad.halves (q : Quad) : Halves := ⟨q.q0, q.q1, q.q2, q.q3⟩

/-- The quadruple read off the derivation register: l1, l2, r1, r2 in that order (R223). -/
def Halves.quad (h : Halves) : Quad := ⟨h.l1, h.l2, h.r1, h.r2⟩

/-- The round of R223 numbered i: `CamRound` with ROM_CAM_SIGMA[2i] and ROM_CAM_SIGMA[2i+1]. -/
def sigmaRound (i : Nat) (q : Quad) : Quad :=
  (camRound q.halves (romCamSigma (2 * i)) (romCamSigma (2 * i + 1))).quad

/-- `DeriveKAKB(km)` (R222, R223): KB starts as KL ^ KR; after the second round KL is XORed in; after the fourth the
register is KA and KR is XORed in; after the sixth it is KB. The six rounds run for every key length. -/
def deriveKeyMaterial (kl kr : Quad) : KeyMaterial :=
  let x := kl.xor kr
  let x := (sigmaRound 1 (sigmaRound 0 x)).xor kl
  let ka := sigmaRound 3 (sigmaRound 2 x)
  let kb := sigmaRound 5 (sigmaRound 4 (ka.xor kr))
  ⟨kl, kr, ka, kb⟩

/-- `RotWin(Q, s)` (R224): the 64-bit window at the top of Q rotated left by s bits. -/
def rotWin (q : Quad) (s : Nat) : Word × Word :=
  let n := s / 32
  let m := s % 32
  if m = 0 then (q.word n, q.word (n + 1))
  else
    ((q.word n <<< m) ||| (q.word (n + 1) >>> (32 - m)),
      (q.word (n + 1) <<< m) ||| (q.word (n + 2) >>> (32 - m)))

/-- One entry of `ExtractSubkeys` (R226): it writes the subkey words `index` and `index + 1`. -/
def placeSubkey (km : KeyMaterial) (sk : Vector Word 68) (e : SubkeyEntry) : Vector Word 68 :=
  let w := rotWin (km.quad e.quad) e.shift
  (sk.setIfInBounds e.index w.1).setIfInBounds (e.index + 1) w.2

/-- `ExtractSubkeys(km, T)` (R226) into a file of zeros, so that the words no entry writes are 0 (R229). -/
def extractSubkeys (km : KeyMaterial) (t : List SubkeyEntry) : Vector Word 68 :=
  t.foldl (placeSubkey km) (Vector.replicate 68 0#32)

/-- The subkey table a key length selects (R226, R228). -/
def subkeyTable (n : Nat) : List SubkeyEntry := if n = 16 then romCamKs1 else romCamKs2

/-- `RKW(j)`: the first subkey word of round j, j counted from 1 (R227). -/
def roundSubkey (j : Nat) : Nat := 4 + 2 * (j - 1) + 4 * ((j - 1) / 6)

/-- Word k of the subkey file. Beyond CAM_SK67, which no reachable round count addresses, it reads 0 (log entry 7). -/
def subkeyWord (sk : Vector Word 68) (k : Nat) : Word := sk.toList.getD k 0#32

/-- XOR of the four words l1, l2, r1, r2 with four subkey words from index k (R227, R258). -/
def whiten (sk : Vector Word 68) (k : Nat) (h : Halves) : Halves :=
  ⟨h.l1 ^^^ subkeyWord sk k, h.l2 ^^^ subkeyWord sk (k + 1), h.r1 ^^^ subkeyWord sk (k + 2),
    h.r2 ^^^ subkeyWord sk (k + 3)⟩

/-- The halves in swapped order, r1, r2, l1, l2 (R258). -/
def Halves.swap (h : Halves) : Halves := ⟨h.r1, h.r2, h.l1, h.l2⟩

/-- An FL layer (R257): forward FL on the left half with the subkey pair at `kl`, inverse FL on the right half with
the pair at `kr`. -/
def flLayer (sk : Vector Word 68) (kl kr : Nat) (h : Halves) : Halves :=
  let l := camFL h.l1 h.l2 (subkeyWord sk kl) (subkeyWord sk (kl + 1))
  let r := camFLInv h.r1 h.r2 (subkeyWord sk kr) (subkeyWord sk (kr + 1))
  ⟨l.1, l.2, r.1, r.2⟩

/-- Round j of cam.enc and the FL layer after it, where there is one: after rounds 6m with 6m < nr (R257, R258). -/
def camEncRound (sk : Vector Word 68) (nr : Nat) (h : Halves) (j : Nat) : Halves :=
  let h := camRound h (subkeyWord sk (roundSubkey j)) (subkeyWord sk (roundSubkey j + 1))
  if j % 6 = 0 ∧ j < nr then flLayer sk (16 * (j / 6)) (16 * (j / 6) + 2) h else h

/-- Round j of cam.dec and the FL layer after it, where there is one, its two subkey pairs exchanged (R259). -/
def camDecRound (sk : Vector Word 68) (h : Halves) (j : Nat) : Halves :=
  let h := camRound h (subkeyWord sk (roundSubkey j)) (subkeyWord sk (roundSubkey j + 1))
  if (j - 1) % 6 = 0 ∧ 1 < j then flLayer sk (16 * ((j - 1) / 6) + 2) (16 * ((j - 1) / 6)) h else h

/-- N, the number of subkey words of a round count (R258). -/
def subkeyCount (nr : Nat) : Nat := if nr = 18 then 52 else 68

/-- The body of cam.enc (R258): whitening with kw1 and kw2, rounds 1 .. nr, and the swapped output whitened with kw3
and kw4. -/
def camEncrypt (sk : Vector Word 68) (nr : Nat) (h : Halves) : Halves :=
  let h := (List.range' 1 nr).foldl (camEncRound sk nr) (whiten sk 0 h)
  whiten sk (subkeyCount nr - 4) h.swap

/-- The body of cam.dec (R259): whitening with kw3 and kw4, rounds nr downto 1, exactly nr of them (R21), and the
swapped output whitened with kw1 and kw2. -/
def camDecrypt (sk : Vector Word 68) (nr : Nat) (h : Halves) : Halves :=
  let h := (List.range' 1 nr).reverse.foldl (camDecRound sk) (whiten sk (subkeyCount nr - 4) h)
  whiten sk 0 h.swap

/-- A block's registers as halves: l1, l2, r1, r2 are words 0 to 3 (R250). -/
def halvesOfWords (w : Vector Word 4) : Halves := ⟨w[0], w[1], w[2], w[3]⟩

/-- The four DOUT registers of an output in the order it is written (R258). -/
def Halves.registers (h : Halves) : Vector Word 4 := #v[h.l1, h.l2, h.r1, h.r2]

/-- The Camellia context a successful cam.init leaves (R228, R229): key material, subkeys and round count. -/
def camContext (key : Vector Word 8) (n nr : Nat) : Vector Word 16 × Vector Word 68 × Word :=
  let raw := loadKeyMaterial (keyString key n)
  let km := deriveKeyMaterial raw.1 raw.2
  (km.file, extractSubkeys km (subkeyTable n), BitVec.ofNat 32 nr)

/-- cam.init (R228). -/
def execCamInit (s : State) : Host.Outcome State Fault Refusal :=
  match camParams s.keylen with
  | none => .next (raiseError .invalidKeyLength s)
  | some (nr, _) =>
    let ctx := camContext s.key s.keylen.toNat nr
    .next (finish { s with camKm := ctx.1, camSk := ctx.2.1, camNr := ctx.2.2, camValid := true })

/-- cam.enc (R258). -/
def execCamEnc (s : State) : Host.Outcome State Fault Refusal :=
  if s.camValid then
    .next (finish { s with dout := (camEncrypt s.camSk s.camNr.toNat (halvesOfWords s.din)).registers })
  else .next (raiseError .notInitialized s)

/-- cam.dec (R259). -/
def execCamDec (s : State) : Host.Outcome State Fault Refusal :=
  if s.camValid then
    .next (finish { s with dout := (camDecrypt s.camSk s.camNr.toNat (halvesOfWords s.din)).registers })
  else .next (raiseError .notInitialized s)

end Sys2Proof.Machine
end

