-- ==== Sys2Proof/Machine/Dispatch.lean ====
section
/-! DEFINITION. `exec`: what the engine's completion step does for each command (R46), one arm per constructor. -/

namespace Sys2Proof.Machine

def exec (i : Instr) (s : State) : Host.Outcome State Fault Refusal :=
  match i with
  | .aesInit => Sys2Proof.Machine.execAesInit s
  | .aesEnc => Sys2Proof.Machine.execAesEnc s
  | .aesDec => Sys2Proof.Machine.execAesDec s
  | .camInit => Sys2Proof.Machine.execCamInit s
  | .camEnc => Sys2Proof.Machine.execCamEnc s
  | .camDec => Sys2Proof.Machine.execCamDec s

end Sys2Proof.Machine
end

