-- ==== Sys2Proof/Machine/Window.lean ====
section
/-! DEFINITION. The register window (10_state.md section 2, 20_memory.md): its registers, the offset of each, what a
read returns and what a write does. -/

namespace Sys2Proof.Machine

/-- The registers of the window (R32 to R44). -/
inductive Reg where
  | cmd
  | status
  | keylen
  | blocksize
  | key (k : Fin 8)
  | din (k : Fin 4)
  | dout (k : Fin 4)
  | aesNr
  | camNr
  | aesRk (i : Fin 60)
  | camKm (i : Fin 16)
  | camSk (i : Fin 68)
  | aesSbox (i : Fin 256)
  | aesInvSbox (i : Fin 256)
  | gfMul2 (i : Fin 256)
  | camSbox1 (i : Fin 256)
  | camSbox2 (i : Fin 256)
  | camSbox3 (i : Fin 256)
  | camSbox4 (i : Fin 256)
  | aesRcon (i : Fin 11)
  | camSigma (i : Fin 12)
deriving DecidableEq, Repr

/-- `off(REG)` (R108): the byte offset of a register, from the map of 10_state.md section 2 and R44. -/
def Reg.offset : Reg → Nat
  | .cmd => 0x000
  | .status => 0x004
  | .keylen => 0x008
  | .blocksize => 0x00C
  | .key k => 0x010 + 4 * k.val
  | .din k => 0x030 + 4 * k.val
  | .dout k => 0x040 + 4 * k.val
  | .aesNr => 0x050
  | .camNr => 0x054
  | .aesRk i => 0x100 + 4 * i.val
  | .camKm i => 0x200 + 4 * i.val
  | .camSk i => 0x300 + 4 * i.val
  | .aesSbox i => 0x1000 + 4 * i.val
  | .aesInvSbox i => 0x1400 + 4 * i.val
  | .gfMul2 i => 0x1800 + 4 * i.val
  | .camSbox1 i => 0x1C00 + 4 * i.val
  | .camSbox2 i => 0x2000 + 4 * i.val
  | .camSbox3 i => 0x2400 + 4 * i.val
  | .camSbox4 i => 0x2800 + 4 * i.val
  | .aesRcon i => 0x2C00 + 4 * i.val
  | .camSigma i => 0x2C40 + 4 * i.val

/-- The register `mk i` when `off` is entry i of the `n` words from `base`. -/
def regInGroup (base n : Nat) (mk : Fin n → Reg) (off : Nat) : Option Reg :=
  if h : base ≤ off ∧ (off - base) / 4 < n then some (mk ⟨(off - base) / 4, h.2⟩) else none

/-- The rows of the map of 10_state.md section 2 and of R44: base offset, number of words, registers. -/
def regGroups : List (Nat → Option Reg) :=
  [regInGroup 0x000 1 fun _ => .cmd,
   regInGroup 0x004 1 fun _ => .status,
   regInGroup 0x008 1 fun _ => .keylen,
   regInGroup 0x00C 1 fun _ => .blocksize,
   regInGroup 0x010 8 .key,
   regInGroup 0x030 4 .din,
   regInGroup 0x040 4 .dout,
   regInGroup 0x050 1 fun _ => .aesNr,
   regInGroup 0x054 1 fun _ => .camNr,
   regInGroup 0x100 60 .aesRk,
   regInGroup 0x200 16 .camKm,
   regInGroup 0x300 68 .camSk,
   regInGroup 0x1000 256 .aesSbox,
   regInGroup 0x1400 256 .aesInvSbox,
   regInGroup 0x1800 256 .gfMul2,
   regInGroup 0x1C00 256 .camSbox1,
   regInGroup 0x2000 256 .camSbox2,
   regInGroup 0x2400 256 .camSbox3,
   regInGroup 0x2800 256 .camSbox4,
   regInGroup 0x2C00 11 .aesRcon,
   regInGroup 0x2C40 12 .camSigma]

/-- The register at an offset, or nothing at an offset that is unmapped or no multiple of 4 (R74, R78). -/
def regAt (off : Nat) : Option Reg := if off % 4 = 0 then regGroups.findSome? fun g => g off else none

/-- `zext_32` of a byte-wide ROM entry (R44). -/
def zext32 (b : Byte) : Word := b.setWidth 32

/-- The index byte of a ROM window's entry. -/
def romIndex (i : Fin 256) : Byte := BitVec.ofNat 8 i.val

/-- What a read of a register returns while BUSY = 0 (R32 to R44). -/
def regValue (s : State) : Reg → Word
  | .cmd => 0#32
  | .status => statusWord s
  | .keylen => s.keylen
  | .blocksize => 0x00000010#32
  | .key k => s.key[k]
  | .din k => s.din[k]
  | .dout k => s.dout[k]
  | .aesNr => s.aesNr
  | .camNr => s.camNr
  | .aesRk i => s.aesRk[i]
  | .camKm i => s.camKm[i]
  | .camSk i => s.camSk[i]
  | .aesSbox i => zext32 (romAesSbox (romIndex i))
  | .aesInvSbox i => zext32 (romAesInvSbox (romIndex i))
  | .gfMul2 i => zext32 (romGfMul2 (romIndex i))
  | .camSbox1 i => zext32 (romCamSbox1 (romIndex i))
  | .camSbox2 i => zext32 (romCamSbox2 (romIndex i))
  | .camSbox3 i => zext32 (romCamSbox3 (romIndex i))
  | .camSbox4 i => zext32 (romCamSbox4 (romIndex i))
  | .aesRcon i => zext32 (romAesRcon i.val)
  | .camSigma i => romCamSigma i.val

/-- What a read of a register returns while BUSY = 1, given a fresh draw (R77). -/
def busyRegValue (drawn : Word) (s : State) : Reg → Word
  | .status => busyStatusWord drawn
  | .dout _ => drawn
  | .aesNr => drawn
  | .camNr => drawn
  | .aesRk _ => drawn
  | .camKm _ => drawn
  | .camSk _ => drawn
  | r => regValue s r

/-- A read of this register takes a draw while BUSY = 1 (R77). -/
def Reg.drawnWhileBusy : Reg → Bool
  | .status => true
  | .dout _ => true
  | .aesNr => true
  | .camNr => true
  | .aesRk _ => true
  | .camKm _ => true
  | .camSk _ => true
  | _ => false

/-- `RegRead(off)` at a supported offset: the value and the state after, in which at most the count of draws has
moved (R75). An unmapped offset reads 0 (R74). -/
def readReg (s : State) (off : Nat) : Word × State :=
  match regAt off with
  | none => (0#32, s)
  | some r =>
    if s.busy && r.drawnWhileBusy then
      (busyRegValue (Config.draw s.draws) s r, { s with draws := s.draws + 1 })
    else (regValue s r, s)

/-- The registers a host write changes; every other one ignores it (R74). -/
def Reg.hostWritable : Reg → Bool
  | .cmd => true
  | .keylen => true
  | .key _ => true
  | .din _ => true
  | _ => false

/-- A host write to a register while BUSY = 0 (R32, R34, R36, R37, R74, R75). -/
def storeReg (s : State) (r : Reg) (v : Word) : State :=
  match r with
  | .cmd => latchCommand v s
  | .keylen => { s with keylen := v }
  | .key k => { s with key := s.key.set k v }
  | .din k => { s with din := s.din.set k v }
  | _ => s

/-- `RegWrite(off, v)` at a supported offset: to CMD, KEYLEN, KEYk or DINk while BUSY = 1 it is WRITE_WHILE_BUSY
(R341); to an unmapped offset or a read-only register it is ignored at any time (R74). -/
def writeReg (s : State) (off : Nat) (v : Word) : State :=
  match regAt off with
  | none => s
  | some r => if s.busy && r.hostWritable then recordFault .writeWhileBusy s else storeReg s r v

/-- The host address of an offset (R70, R115): relative to `WINDOW_BASE`. -/
def hostAddress (off : Nat) : Nat := Config.windowBase + off

/-- The offset of a host address inside the window (R70). -/
def windowOffset (addr : Nat) : Option Nat :=
  if Config.windowBase ≤ addr ∧ addr < Config.windowBase + 0x3000 then some (addr - Config.windowBase) else none

end Sys2Proof.Machine
end

