-- ==== Sys2Proof/Machine/HostSteps.lean ====
section
/-! DEFINITION. One step of the outside: a register access, one turn of `wait`, an idle step or the platform's reset
(R30, R108, R112, R330), with the countdown of a running command's latency (R15, R340). -/

namespace Sys2Proof.Machine

/-- A host read (R73, R77, R108): a supported one returns its value as the program's observation; any other is
UNSUPPORTED_ACCESS and has no other effect. -/
def hostRead (s : State) (width off : Nat) : State :=
  if accessWellFormed width off then
    let r := readReg s off
    { r.2 with observed := r.2.observed ++ [r.1] }
  else recordFault .unsupportedAccess s

/-- A host write (R73, R74, R341): any but a supported one is UNSUPPORTED_ACCESS and has no other effect. -/
def hostWrite (s : State) (width off : Nat) (v : Word) : State :=
  if accessWellFormed width off then writeReg s off v else recordFault .unsupportedAccess s

/-- One turn of `wait` (R112): read STATUS; if bit 0 of the value read is 1, `wait` goes on with the next step. -/
def hostWait (s : State) : State :=
  let r := readReg s Reg.status.offset
  let t := { r.2 with observed := r.2.observed ++ [r.1] }
  if r.1.getLsbD 0 then { t with inputs := .wait :: t.inputs } else t

/-- What one entry of the input list does. -/
def performOp (s : State) : HostOp → State
  | .read width off => hostRead s width off
  | .write width off v => hostWrite s width off v
  | .wait => hostWait s
  | .idle => s
  | .reset => resetBlock s

/-- One of the steps that `LAT(cmd)` counts has passed (R15, R340). -/
def tickLatency (s : State) : State := if s.busy then { s with latLeft := s.latLeft - 1 } else s

/-- One step of the outside: the next entry of the input list, or nothing when the list is empty (R317, R334). -/
def hostStep (s : State) : State :=
  let t := tickLatency s
  match t.inputs with
  | [] => t
  | op :: rest => performOp { t with inputs := rest } op

end Sys2Proof.Machine
end

