-- ==== Sys2Proof/Machine/Engine.lean ====
section
/-! DEFINITION. The engine's one step, the completion of the latched command (R46), and which agent takes the next
step (R30, R305, R308). -/

namespace Sys2Proof.Machine

/-- The completion step (R46): PENDING is decoded here (R101); a legal word is executed and an illegal one ends with
ILLEGAL_COMMAND before any operand is read (R303, R305). -/
def completionStep (s : State) : Host.Outcome State Fault Refusal :=
  match decode s.pending with
  | .ok i => exec i s
  | .error _ => .next (raiseError .illegalCommand s)

/-- The platform takes reset next, which is enabled in every state and goes before a completion (R305, R330). -/
def resetNext (s : State) : Bool := s.inputs.head? == some HostOp.reset

/-- The completion step is the next one: a command is latched and this is the last of its `LAT(cmd)` steps (R46,
R340). -/
def engineReady (s : State) : Bool := s.busy && s.latLeft ≤ 1

/-- The next step is that of the engine: no reset goes before it and no fault has made the state quiescent. -/
def engineNext (s : State) : Bool := engineReady s && !resetNext s && (recordedFault s.faults).isNone

/-- The state in which the very next step completes the command word `w`: `w` is latched (R32) with one step of its
latency left, and neither a recorded fault nor a reset stands before it. -/
def placeCommand (s : State) (w : Word) : State :=
  { s with
    pending := w, busy := true, latLeft := 1, faults := ⟨false, false⟩,
    inputs := s.inputs.dropWhile (· == HostOp.reset) }

end Sys2Proof.Machine
end

