-- ==== Sys2Proof/Machine/Step.lean ====
section
/-! DEFINITION. One step of the machine, and how a command word is placed where the next step runs it. -/

namespace Sys2Proof.Machine

/-- One event of the total order of R79. Reset goes first in every state (R330, R305); a state with a recorded fault
is quiescent otherwise (R308); a command at the end of its latency completes (R46); else the outside moves. -/
def step (s : State) : Host.Outcome State Fault Refusal :=
  if resetNext s then .next (hostStep s)
  else
    match recordedFault s.faults with
    | some f => .fault f
    | none => if engineReady s then completionStep s else .next (hostStep s)

/-- `s` with the command word whose `nbits` bits are `w` latched as the next one to complete (log entry 9). -/
def State.withFetchWord (s : State) (nbits w : Nat) : State :=
  placeCommand s (BitVec.ofNat 32 (w % 2 ^ nbits))

end Sys2Proof.Machine
end

