-- ==== Sys2Proof/Machine/HostProgram.lean ====
section
/-! DEFINITION. The notation for host programs (R108 to R113): each operation as the list of inputs it expands to. -/

namespace Sys2Proof.Machine

/-- `wr <REG>, <imm32>` (R108). -/
def wr (r : Reg) (v : Word) : HostOp := .write 32 r.offset v

/-- `rd <REG>` (R108). -/
def rd (r : Reg) : HostOp := .read 32 r.offset

/-- `cmd <mnemonic>` (R110). -/
def cmdOps (i : Instr) : List HostOp := [wr .cmd (encode i)]

/-- `keylen <imm32>` (R111). -/
def keylenOps (v : Word) : List HostOp := [wr .keylen v]

/-- `key <hex string>` (R111): KEYLEN, then KEYk for each k below ceil(n/4), the string padded with zero bytes. -/
def keyOps (k : List Byte) : List HostOp :=
  wr .keylen (BitVec.ofNat 32 k.length) ::
    ((List.finRange 8).filter fun j => decide (j.val < (k.length + 3) / 4)).map fun j => wr (.key j) (be32 k (4 * j.val))

/-- `wait` (R112). -/
def waitOps : List HostOp := [.wait]

/-- `blk <hex string of 16 bytes>` (R113). -/
def blkOps (b : Block) : List HostOp := (List.finRange 4).map fun k => wr (.din k) (wordsOfBlock b)[k]

/-- `out` (R113). -/
def outOps : List HostOp := (List.finRange 4).map fun k => rd (.dout k)

end Sys2Proof.Machine
end

