-- ==== Sys2Proof/Safety.lean ====
section
/-! DEFINITION. The terms in which claims are stated: runs and how they end (R347), the invariants of the two
contexts (R49, R50), what two states share, and the second description the spec gives of some of its functions (the
field arithmetic and matrices of R19, R133, R183 and R202, the byte equations of R253 and the 128-bit rotations of
R224). No file under Machine/ uses a definition of this file. -/

namespace Sys2Proof.Machine

/-! ### Runs -/

/-- `k` steps from `s`, ending at the first fault or refusal. -/
def run : Nat → State → Host.Outcome State Fault Refusal
  | 0, s => .next s
  | k + 1, s =>
    match step s with
    | .next t => run k t
    | .fault f => .fault f
    | .refused r => .refused r

/-- No fault is recorded (R48). -/
abbrev State.FaultFree (s : State) : Prop := recordedFault s.faults = none

/-- A run that ends here ends well (R347): the outside has done its last operation, the engine has no enabled step
and no fault is recorded. -/
abbrev State.EndsWell (s : State) : Prop := s.inputs = [] ∧ s.busy = false ∧ s.FaultFree

/-- The next step is the outside's operation `op`, with `rest` after it. -/
abbrev HostTurn (s : State) (op : HostOp) (rest : List HostOp) : Prop :=
  s.inputs = op :: rest ∧ s.FaultFree ∧ engineReady s = false

/-- What a host may do while a command runs (R340, R341, R348): anything but a reset, an unsupported access and a
write to CMD, KEYLEN, KEYk or DINk. -/
def HostOp.allowedWhileBusy : HostOp → Bool
  | .read width off => accessWellFormed width off
  | .write width off _ => accessWellFormed width off && !((regAt off).any Reg.hostWritable)
  | .wait => true
  | .idle => true
  | .reset => false

/-! ### What two states share -/

/-- Every register reads the same, with what lies behind STATUS the same too. -/
abbrev SameRegisters (s t : State) : Prop :=
  (∀ r : Reg, regValue t r = regValue s r) ∧ t.busy = s.busy ∧ t.errcode = s.errcode ∧
    t.aesValid = s.aesValid ∧ t.camValid = s.camValid ∧ t.pending = s.pending

/-- What no command touches: PENDING, the fault mark, and the model's own record of the outside. -/
abbrev SameOutside (s t : State) : Prop :=
  t.pending = s.pending ∧ t.faults = s.faults ∧ t.latLeft = s.latLeft ∧ t.draws = s.draws ∧
    t.inputs = s.inputs ∧ t.observed = s.observed

/-- The AES context (R49): its VALID bit, round count and round-key file. -/
abbrev SameAesContext (s t : State) : Prop :=
  t.aesValid = s.aesValid ∧ t.aesNr = s.aesNr ∧ t.aesRk = s.aesRk

/-- The Camellia context (R50): its VALID bit, round count, key material and subkey file. -/
abbrev SameCamContext (s t : State) : Prop :=
  t.camValid = s.camValid ∧ t.camNr = s.camNr ∧ t.camKm = s.camKm ∧ t.camSk = s.camSk

/-- The operands of the commands: KEYLEN, KEY and DIN (R103). -/
abbrev SameOperands (s t : State) : Prop := t.keylen = s.keylen ∧ t.key = s.key ∧ t.din = s.din

/-- `s` with the AES context of `u`. -/
def withAesContext (s u : State) : State :=
  { s with aesValid := u.aesValid, aesNr := u.aesNr, aesRk := u.aesRk }

/-- `s` with the Camellia context of `u`. -/
def withCamContext (s u : State) : State :=
  { s with camValid := u.camValid, camNr := u.camNr, camKm := u.camKm, camSk := u.camSk }

/-- `s` with other values in the fields that are the model's own and no part of the block: the latency's countdown, the
count of draws, the inputs to come and the observations made. -/
def State.withModelFields (s : State) (lat n : Nat) (l : List HostOp) (o : List Word) : State :=
  { s with latLeft := lat, draws := n, inputs := l, observed := o }

/-- The register is an entry of a ROM window (R44). -/
def Reg.isRom : Reg → Bool
  | .aesSbox _ => true
  | .aesInvSbox _ => true
  | .gfMul2 _ => true
  | .camSbox1 _ => true
  | .camSbox2 _ => true
  | .camSbox3 _ => true
  | .camSbox4 _ => true
  | .aesRcon _ => true
  | .camSigma _ => true
  | _ => false

/-- The key lengths both engines support (R10). -/
abbrev SupportedLength (n : Word) : Prop := n = 16#32 ∨ n = 24#32 ∨ n = 32#32

/-! ### Context invariants -/

/-- The AES context invariant (R49). -/
def AesContextInv (s : State) : Prop :=
  (s.aesValid = true → (s.aesNr = 10#32 ∨ s.aesNr = 12#32 ∨ s.aesNr = 14#32) ∧
    ∀ i : Fin 60, 4 * (s.aesNr.toNat + 1) ≤ i.val → s.aesRk[i] = 0#32) ∧
  (s.aesValid = false → s.aesNr = 0#32 ∧ ∀ i : Fin 60, s.aesRk[i] = 0#32)

/-- The Camellia context invariant (R50), but for its sentence on 24-byte keys. -/
def CamContextInv (s : State) : Prop :=
  (s.camValid = true → (s.camNr = 18#32 ∨ s.camNr = 24#32) ∧
    (s.camNr = 18#32 → ∀ i : Fin 68, 52 ≤ i.val → s.camSk[i] = 0#32)) ∧
  (s.camValid = false → s.camNr = 0#32 ∧ (∀ i : Fin 16, s.camKm[i] = 0#32) ∧ ∀ i : Fin 68, s.camSk[i] = 0#32)

/-- Both context invariants. -/
def ContextInv (s : State) : Prop := AesContextInv s ∧ CamContextInv s

/-- The recurrence of R163 over the registers: with Nk = Nr - 6 (R11), AES_RK[i] = AES_RK[i-Nk] ^ temp for
Nk <= i < 4(Nr+1), where temp is made from AES_RK[i-1]. -/
def AesRecurrence (rk : Vector Word 60) (nr : Nat) : Prop :=
  ∀ i, nr - 6 ≤ i → i < 4 * (nr + 1) →
    roundKeyWord rk i = roundKeyWord rk (i - (nr - 6)) ^^^
      (if i % (nr - 6) = 0 then subWord ((roundKeyWord rk (i - 1)).rotateLeft 8) ^^^ rconWord (i / (nr - 6))
        else if 6 < nr - 6 ∧ i % (nr - 6) = 4 then subWord (roundKeyWord rk (i - 1))
        else roundKeyWord rk (i - 1))

/-- The quadruple held in the four key-material registers from word k (R42). -/
def quadAt (km : Vector Word 16) (k : Nat) : Quad :=
  ⟨km.toList.getD k 0#32, km.toList.getD (k + 1) 0#32, km.toList.getD (k + 2) 0#32, km.toList.getD (k + 3) 0#32⟩

/-- A quadruple as one 128-bit number, q0 most significant (R17). -/
def Quad.toBits (q : Quad) : BitVec 128 := q.q0 ++ q.q1 ++ q.q2 ++ q.q3

/-- The key-material register from which the quadruple of a table entry starts (R226). -/
def QuadName.base : QuadName → Nat
  | .kl => 0
  | .kr => 4
  | .ka => 8
  | .kb => 12

/-- The 64-bit subkey sk[k] : sk[k+1]. -/
def subkey64 (sk : Vector Word 68) (k : Nat) : BitVec 64 := subkeyWord sk k ++ subkeyWord sk (k + 1)

/-! ### The checks of R305 -/

/-- The code a completion reports, by the order of R305 and the fields of R100. -/
def completionCode (s : State) : ErrCode :=
  if s.pending.extractLsb' 3 29 ≠ 0#29 ∨ s.pending.extractLsb' 0 2 = 0#2 then .illegalCommand
  else if s.pending.extractLsb' 0 2 = 1#2 then
    if s.keylen = 16#32 ∨ s.keylen = 24#32 ∨ s.keylen = 32#32 then .noError else .invalidKeyLength
  else if (if s.pending.getLsbD 2 then s.camValid else s.aesValid) then .noError
  else .notInitialized

/-! ### GF(2^8) and the AES matrices -/

/-- `mul2(b)` by its formula (R19). -/
def mul2 (b : Byte) : Byte := (b <<< 1) ^^^ (if b.getLsbD 7 then 0x1B#8 else 0x00#8)

/-- The product of `a` and the polynomial whose low `n` coefficients are those of `b`, in GF(2^8) (R19). -/
def gfMulLow : Nat → Byte → Byte → Byte
  | 0, _, _ => 0x00#8
  | n + 1, a, b => (if b.getLsbD 0 then a else 0x00#8) ^^^ gfMulLow n (mul2 a) (b >>> 1)

/-- The product of two bytes in GF(2^8) modulo x^8+x^4+x^3+x+1 (R19). -/
def gfMul (a b : Byte) : Byte := gfMulLow 8 a b

/-- The affine map A of R133. -/
def sboxAffine (b : Byte) : Byte :=
  b ^^^ b.rotateLeft 1 ^^^ b.rotateLeft 2 ^^^ b.rotateLeft 3 ^^^ b.rotateLeft 4 ^^^ 0x63#8

/-- A row of four bytes, entry 0 first. -/
def byteRow (b0 b1 b2 b3 : Byte) : Fin 4 → Byte
  | 0 => b0
  | 1 => b1
  | 2 => b2
  | 3 => b3

/-- The FIPS-197 MixColumns matrix, row by row (R183). -/
def mixMatrix : Fin 4 → Fin 4 → Byte
  | 0 => byteRow 0x02#8 0x03#8 0x01#8 0x01#8
  | 1 => byteRow 0x01#8 0x02#8 0x03#8 0x01#8
  | 2 => byteRow 0x01#8 0x01#8 0x02#8 0x03#8
  | 3 => byteRow 0x03#8 0x01#8 0x01#8 0x02#8

/-- The FIPS-197 inverse matrix, row by row (R202). -/
def invMixMatrix : Fin 4 → Fin 4 → Byte
  | 0 => byteRow 0x0e#8 0x0b#8 0x0d#8 0x09#8
  | 1 => byteRow 0x09#8 0x0e#8 0x0b#8 0x0d#8
  | 2 => byteRow 0x0d#8 0x09#8 0x0e#8 0x0b#8
  | 3 => byteRow 0x0b#8 0x0d#8 0x09#8 0x0e#8

/-- Row i of a matrix times a column, in GF(2^8). -/
def matrixRow (m : Fin 4 → Fin 4 → Byte) (col : Fin 4 → Byte) (i : Fin 4) : Byte :=
  gfMul (m i 0) (col 0) ^^^ gfMul (m i 1) (col 1) ^^^ gfMul (m i 2) (col 2) ^^^ gfMul (m i 3) (col 3)

/-- Byte i of round-key word 4r + c (R184). -/
def roundKeyByte (s : State) (r : Nat) (i c : Fin 4) : Byte :=
  (roundKeyWord s.aesRk (4 * r + c.val)).extractLsb' (24 - 8 * i.val) 8

/-- Byte i of column c of a block held in four registers: DINc or DOUTc, row 0 in bits [31:24] (R180, R187). -/
def columnByte (w : Vector Word 4) (i c : Fin 4) : Byte := w[c].extractLsb' (24 - 8 * i.val) 8

/-! ### Camellia on 64-bit halves -/

/-- Byte j of a 64-bit half, byte 0 the most significant. -/
def halfByte (x : BitVec 64) (j : Nat) : Byte := x.extractLsb' (56 - 8 * j) 8

/-- The F-function on a 64-bit half by the byte equations of R253: with S-outputs t1 to t8, the zr bytes first, then
the zl bytes. -/
def camF64 (x k : BitVec 64) : BitVec 64 :=
  let z := x ^^^ k
  let t1 := romCamSbox1 (halfByte z 0)
  let t2 := romCamSbox2 (halfByte z 1)
  let t3 := romCamSbox3 (halfByte z 2)
  let t4 := romCamSbox4 (halfByte z 3)
  let t5 := romCamSbox2 (halfByte z 4)
  let t6 := romCamSbox3 (halfByte z 5)
  let t7 := romCamSbox4 (halfByte z 6)
  let t8 := romCamSbox1 (halfByte z 7)
  (t1 ^^^ t3 ^^^ t4 ^^^ t6 ^^^ t7 ^^^ t8) ++ (t1 ^^^ t2 ^^^ t4 ^^^ t5 ^^^ t7 ^^^ t8) ++
    (t1 ^^^ t2 ^^^ t3 ^^^ t5 ^^^ t6 ^^^ t8) ++ (t2 ^^^ t3 ^^^ t4 ^^^ t5 ^^^ t6 ^^^ t7) ++
    (t1 ^^^ t2 ^^^ t6 ^^^ t7 ^^^ t8) ++ (t2 ^^^ t3 ^^^ t5 ^^^ t7 ^^^ t8) ++
    (t3 ^^^ t4 ^^^ t5 ^^^ t6 ^^^ t8) ++ (t1 ^^^ t4 ^^^ t5 ^^^ t6 ^^^ t7)

/-- The forward FL transform on a 64-bit half (R255). -/
def camFL64 (x k : BitVec 64) : BitVec 64 :=
  let p := camFL (x.extractLsb' 32 32) (x.extractLsb' 0 32) (k.extractLsb' 32 32) (k.extractLsb' 0 32)
  p.1 ++ p.2

/-- The inverse FL transform on a 64-bit half (R256). -/
def camFLInv64 (y k : BitVec 64) : BitVec 64 :=
  let p := camFLInv (y.extractLsb' 32 32) (y.extractLsb' 0 32) (k.extractLsb' 32 32) (k.extractLsb' 0 32)
  p.1 ++ p.2

/-- The left or right half of a block's four registers (R250). -/
def leftHalf (w : Vector Word 4) : BitVec 64 := w[0] ++ w[1]

/-- The right half of a block's four registers (R250). -/
def rightHalf (w : Vector Word 4) : BitVec 64 := w[2] ++ w[3]

/-! ### Schedules -/

/-- A pair of sigma words as one 64-bit constant (R140). -/
def sigma64 (i : Nat) : BitVec 64 := romCamSigma (2 * i) ++ romCamSigma (2 * i + 1)

/-- One Feistel round, with its swap, on a 128-bit number L:R (R254): L becomes R XOR F(L, k), R becomes L. -/
def feistelRound (k : BitVec 64) (x : BitVec 128) : BitVec 128 :=
  (x.extractLsb' 0 64 ^^^ camF64 (x.extractLsb' 64 64) k) ++ x.extractLsb' 64 64

/-- KA from KL and KR as 128-bit numbers (R222, R223): two rounds from KL XOR KR, KL added, two rounds more. -/
def kaOf (kl kr : BitVec 128) : BitVec 128 :=
  feistelRound (sigma64 3) (feistelRound (sigma64 2)
    (feistelRound (sigma64 1) (feistelRound (sigma64 0) (kl ^^^ kr)) ^^^ kl))

/-- KB from KA and KR (R223): the last two rounds from KA XOR KR. -/
def kbOf (ka kr : BitVec 128) : BitVec 128 := feistelRound (sigma64 5) (feistelRound (sigma64 4) (ka ^^^ kr))

/-- The key-material file holds a KA and a KB that its own KL and KR give (R223). -/
def MaterialDerived (km : Vector Word 16) : Prop :=
  (quadAt km 8).toBits = kaOf (quadAt km 0).toBits (quadAt km 4).toBits ∧
    (quadAt km 12).toBits = kbOf (quadAt km 8).toBits (quadAt km 4).toBits

/-- Every entry of the table holds: the subkey at `index` is the high half of its quadruple rotated left, as one
128-bit number, by `rot + half` (R224, R226). -/
def SubkeysFollowTable (km : Vector Word 16) (sk : Vector Word 68) (t : List SubkeyEntry) : Prop :=
  ∀ e ∈ t, subkey64 sk e.index =
    (((quadAt km e.quad.base).toBits.rotateLeft e.shift).extractLsb' 64 64)

/-- The schedule a valid context holds is that of some key: the AES words follow the recurrence of R163, and the
Camellia words are derived from KL and KR as R223 and R226 say, with KR = 0 where 18 rounds say that the key has 16
bytes (R221) (R33: VALID is 1 when the context holds the schedule of a successful INIT). -/
def ScheduleInv (s : State) : Prop :=
  (s.aesValid = true → AesRecurrence s.aesRk s.aesNr.toNat) ∧
  (s.camValid = true → MaterialDerived s.camKm ∧
    (s.camNr = 18#32 → ∀ i : Fin 4, s.camKm[i.val + 4] = 0#32) ∧
    SubkeysFollowTable s.camKm s.camSk (if s.camNr = 18#32 then romCamKs1 else romCamKs2))

end Sys2Proof.Machine
end

