-- ==== Sys2Proof/Certificates/Slice0/Obligations.lean ====
section
/-! DEFINITION. The statements for the provers, made from the numbered rules of spec/. -/

open Sys2Proof Sys2Proof.Machine

/-! ### Reset -/

/-- R330, R331, R333: the step Reset, enabled in every state, busy or not, faulted or not, gives every register its
reset value, leaves the ROM entries and the fault mark alone and discards a pending command. -/
def Obligations.ResetStepGivesResetValues : Prop :=
  ∀ s : State, resetNext s = true → ∃ t, step s = .next t ∧
    t.busy = false ∧ t.errcode = .noError ∧ t.aesValid = false ∧ t.camValid = false ∧
    regValue t .cmd = 0#32 ∧ regValue t .status = 0#32 ∧ regValue t .keylen = 0#32 ∧
    regValue t .blocksize = 0x10#32 ∧
    (∀ k, regValue t (.key k) = 0#32) ∧ (∀ k, regValue t (.din k) = 0#32) ∧
    (∀ k, regValue t (.dout k) = 0#32) ∧ regValue t .aesNr = 0#32 ∧ regValue t .camNr = 0#32 ∧
    (∀ i, regValue t (.aesRk i) = 0#32) ∧ (∀ i, regValue t (.camKm i) = 0#32) ∧
    (∀ i, regValue t (.camSk i) = 0#32) ∧
    (∀ r : Reg, r.isRom = true → regValue t r = regValue s r) ∧
    t.faults = s.faults ∧ t.inputs = s.inputs.tail

/-- R332: both context invariants hold after reset, in their "not valid" form, whether reached at power-on or by a
Reset step. -/
def Obligations.ResetEstablishesContextInvariants : Prop :=
  (State.reset.aesValid = false ∧ State.reset.camValid = false ∧ ContextInv State.reset ∧
    ScheduleInv State.reset) ∧
  ∀ s : State, (resetBlock s).aesValid = false ∧ (resetBlock s).camValid = false ∧ ContextInv (resetBlock s)

/-! ### The register window -/

/-- The map of 10_state.md section 2: every register is found at its offset, which is a multiple of 4 inside the
window, and an offset names at most one register; the registers below the ROM windows stand at the offsets that the
map prints, and while BUSY = 0 a read there returns the state's own field. -/
def Obligations.RegisterMapIsOneToOne : Prop :=
  (∀ r : Reg, regAt r.offset = some r ∧ r.offset % 4 = 0 ∧ r.offset < 0x3000) ∧
  (∀ (off : Nat) (r : Reg), regAt off = some r → off = r.offset) ∧
  (regAt 0x000 = some .cmd ∧ regAt 0x004 = some .status ∧ regAt 0x008 = some .keylen ∧
    regAt 0x00C = some .blocksize ∧ regAt 0x050 = some .aesNr ∧ regAt 0x054 = some .camNr ∧
    (∀ k : Fin 8, regAt (0x010 + 4 * k.val) = some (.key k)) ∧
    (∀ k : Fin 4, regAt (0x030 + 4 * k.val) = some (.din k) ∧ regAt (0x040 + 4 * k.val) = some (.dout k)) ∧
    (∀ i : Fin 60, regAt (0x100 + 4 * i.val) = some (.aesRk i)) ∧
    (∀ i : Fin 16, regAt (0x200 + 4 * i.val) = some (.camKm i)) ∧
    ∀ i : Fin 68, regAt (0x300 + 4 * i.val) = some (.camSk i)) ∧
  ∀ s : State, s.busy = false →
    (readReg s 0x000).1 = 0#32 ∧ (readReg s 0x004).1 = statusWord s ∧ (readReg s 0x008).1 = s.keylen ∧
    (readReg s 0x00C).1 = 0x10#32 ∧ (readReg s 0x050).1 = s.aesNr ∧ (readReg s 0x054).1 = s.camNr ∧
    (∀ k : Fin 8, (readReg s (0x010 + 4 * k.val)).1 = s.key[k]) ∧
    (∀ k : Fin 4, (readReg s (0x030 + 4 * k.val)).1 = s.din[k] ∧ (readReg s (0x040 + 4 * k.val)).1 = s.dout[k]) ∧
    (∀ i : Fin 60, (readReg s (0x100 + 4 * i.val)).1 = s.aesRk[i]) ∧
    (∀ i : Fin 16, (readReg s (0x200 + 4 * i.val)).1 = s.camKm[i]) ∧
    ∀ i : Fin 68, (readReg s (0x300 + 4 * i.val)).1 = s.camSk[i]

/-- R78: the unmapped offsets of the window are exactly the six ranges it lists. -/
def Obligations.UnmappedOffsetsAreTheListedRanges : Prop :=
  ∀ off, off % 4 = 0 → off < 0x3000 →
    (regAt off = none ↔
      (0x0058 ≤ off ∧ off ≤ 0x00FC) ∨ (0x01F0 ≤ off ∧ off ≤ 0x01FC) ∨ (0x0240 ≤ off ∧ off ≤ 0x02FC) ∨
      (0x0410 ≤ off ∧ off ≤ 0x0FFC) ∨ (0x2C2C ≤ off ∧ off ≤ 0x2C3C) ∨ (0x2C70 ≤ off ∧ off ≤ 0x2FFC))

/-- R74: an aligned read of an unmapped offset returns 0, an aligned write to an unmapped offset or to a read-only
register is ignored, busy or not, and a read of CMD returns 0; an ignored write sets no ERRCODE and records no
fault. -/
def Obligations.UnmappedAndReadOnlyOffsetsIgnoreWrites : Prop :=
  ∀ (s : State) (rest : List HostOp) (off : Nat), off % 4 = 0 → off < 0x3000 →
    (HostTurn s (.read 32 off) rest → (regAt off = none ∨ regAt off = some .cmd) →
      ∃ t, step s = .next t ∧ t.observed = s.observed ++ [0#32] ∧ SameRegisters s t ∧ t.faults = s.faults ∧
        t.draws = s.draws ∧ t.inputs = rest) ∧
    (∀ v, HostTurn s (.write 32 off v) rest →
      (regAt off = none ∨ ∃ r, regAt off = some r ∧ r ≠ .cmd ∧ r ≠ .keylen ∧ (∀ k, r ≠ .key k) ∧ ∀ k, r ≠ .din k) →
      ∃ t, step s = .next t ∧ SameRegisters s t ∧ t.faults = s.faults ∧ t.draws = s.draws ∧
        t.observed = s.observed ∧ t.inputs = rest)

/-- R34, R36, R37, R75: a host write to KEYLEN, KEYk or DINk while BUSY = 0 stores the value and changes no other
register. -/
def Obligations.ConfigurationWritesStoreTheirValue : Prop :=
  ∀ (s : State) (rest : List HostOp) (r : Reg) (v : Word), HostTurn s (.write 32 r.offset v) rest →
    s.busy = false → (r = .keylen ∨ (∃ k, r = .key k) ∨ ∃ k, r = .din k) →
    ∃ t, step s = .next t ∧ regValue t r = v ∧ (∀ r', r' ≠ r → regValue t r' = regValue s r') ∧
      t.busy = false ∧ t.errcode = s.errcode ∧ SameAesContext s t ∧ SameCamContext s t ∧
      t.faults = s.faults ∧ t.pending = s.pending ∧ t.draws = s.draws ∧ t.observed = s.observed ∧ t.inputs = rest

/-- R32: a host write of v to CMD while BUSY = 0 latches v into PENDING, sets BUSY to 1 and ERRCODE to 0, and changes
nothing else; a read of CMD still returns 0.
R15: the latency of the command is at least one step. -/
def Obligations.CommandWriteLatchesTheWord : Prop :=
  ∀ (s : State) (rest : List HostOp) (v : Word), HostTurn s (.write 32 0x000 v) rest → s.busy = false →
    ∃ t, step s = .next t ∧ t.pending = v ∧ t.busy = true ∧ t.errcode = .noError ∧ regValue t .cmd = 0#32 ∧
      1 ≤ t.latLeft ∧ (∀ r : Reg, r ≠ .status → regValue t r = regValue s r) ∧
      SameAesContext s t ∧ SameCamContext s t ∧ t.faults = s.faults ∧ t.observed = s.observed ∧ t.inputs = rest

/-- R341: while BUSY = 1 a host write to CMD, KEYLEN, KEYk or DINk records WRITE_WHILE_BUSY and has no other effect on
any register, so the engine's operands stay those present at the CMD write; a write to any other offset is ignored and
records nothing (R74).
R341 says only that the faulting write has no other defined effect: that it changes no register at all is the model's
choice (log entry 4). -/
def Obligations.WriteWhileBusyRecordsItsFault : Prop :=
  ∀ (s : State) (rest : List HostOp) (off : Nat) (v : Word), off % 4 = 0 → off < 0x3000 →
    HostTurn s (.write 32 off v) rest → s.busy = true →
    ∃ t, step s = .next t ∧ SameRegisters s t ∧ SameOperands s t ∧ t.draws = s.draws ∧
      t.observed = s.observed ∧ t.inputs = rest ∧
      ((∃ r, regAt off = some r ∧ (r = .cmd ∨ r = .keylen ∨ (∃ k, r = .key k) ∨ ∃ k, r = .din k)) →
        t.faults = ⟨s.faults.unsupportedAccess, true⟩) ∧
      (¬ (∃ r, regAt off = some r ∧ (r = .cmd ∨ r = .keylen ∨ (∃ k, r = .key k) ∨ ∃ k, r = .din k)) →
        t.faults = s.faults)

/-- R73: an access of another width, at an offset no multiple of 4, or at or above 0x3000 records UNSUPPORTED_ACCESS
and has no other effect; in particular it returns no value.
That a write which falls under both R73 and R341 (BUSY = 1) records this reason alone is the model's reading
(log entry 12). -/
def Obligations.UnsupportedAccessRecordsItsFault : Prop :=
  ∀ (s : State) (rest : List HostOp) (width off : Nat) (v : Word),
    (HostTurn s (.read width off) rest ∨ HostTurn s (.write width off v) rest) →
    (width ≠ 32 ∨ off % 4 ≠ 0 ∨ 0x3000 ≤ off) →
    ∃ t, step s = .next t ∧ t.faults = ⟨true, s.faults.writeWhileBusy⟩ ∧ SameRegisters s t ∧
      t.draws = s.draws ∧ t.observed = s.observed ∧ t.inputs = rest

/-- R75, R79: while BUSY = 0 a host read returns the register's value and changes no register, so reading again
returns the same. -/
def Obligations.ReadsReturnTheRegisterAndChangeNothing : Prop :=
  ∀ (s : State) (rest : List HostOp) (r : Reg), HostTurn s (.read 32 r.offset) rest → s.busy = false →
    ∃ t, step s = .next t ∧ t.observed = s.observed ++ [regValue s r] ∧ SameRegisters s t ∧ t.faults = s.faults ∧
      t.draws = s.draws ∧ t.inputs = rest

/-- R77: while BUSY = 1 a read of STATUS returns BUSY = 1 and every other bit drawn; a read of DOUTk, AES_NR, CAM_NR,
AES_RKi, CAM_KMi or CAM_SKi returns a fresh draw; any other register and an unmapped offset read as when BUSY = 0.
No read changes a register. -/
def Obligations.ReadsWhileBusyAreDraws : Prop :=
  (∀ (s : State) (rest : List HostOp) (r : Reg), HostTurn s (.read 32 r.offset) rest → s.busy = true →
    ∃ t v, step s = .next t ∧ t.observed = s.observed ++ [v] ∧ SameRegisters s t ∧ t.faults = s.faults ∧
      t.inputs = rest ∧
      (r = .status → v.getLsbD 0 = true ∧ (∀ b, 1 ≤ b → v.getLsbD b = (Config.draw s.draws).getLsbD b) ∧
        t.draws = s.draws + 1) ∧
      ((r = .aesNr ∨ r = .camNr ∨ (∃ k, r = .dout k) ∨ (∃ i, r = .aesRk i) ∨ (∃ i, r = .camKm i) ∨
        ∃ i, r = .camSk i) → v = Config.draw s.draws ∧ t.draws = s.draws + 1) ∧
      ((r = .keylen ∨ r = .blocksize ∨ r = .cmd ∨ r.isRom = true ∨ (∃ k, r = .key k) ∨ ∃ k, r = .din k) →
        v = regValue s r ∧ t.draws = s.draws)) ∧
  ∀ (s : State) (rest : List HostOp) (off : Nat), HostTurn s (.read 32 off) rest → s.busy = true →
    off % 4 = 0 → off < 0x3000 → regAt off = none →
    ∃ t, step s = .next t ∧ t.observed = s.observed ++ [0#32] ∧ SameRegisters s t ∧ t.faults = s.faults ∧
      t.draws = s.draws ∧ t.inputs = rest

/-- R44: entry i of each ROM window is the table's entry i, bytes zero-extended, in every state. -/
def Obligations.RomWindowsReadTheirTables : Prop :=
  ∀ s : State,
    (∀ i : Fin 256, (readReg s (0x1000 + 4 * i.val)).1 = 0#24 ++ romAesSbox (BitVec.ofNat 8 i.val) ∧
      (readReg s (0x1400 + 4 * i.val)).1 = 0#24 ++ romAesInvSbox (BitVec.ofNat 8 i.val) ∧
      (readReg s (0x1800 + 4 * i.val)).1 = 0#24 ++ romGfMul2 (BitVec.ofNat 8 i.val) ∧
      (readReg s (0x1C00 + 4 * i.val)).1 = 0#24 ++ romCamSbox1 (BitVec.ofNat 8 i.val) ∧
      (readReg s (0x2000 + 4 * i.val)).1 = 0#24 ++ romCamSbox2 (BitVec.ofNat 8 i.val) ∧
      (readReg s (0x2400 + 4 * i.val)).1 = 0#24 ++ romCamSbox3 (BitVec.ofNat 8 i.val) ∧
      (readReg s (0x2800 + 4 * i.val)).1 = 0#24 ++ romCamSbox4 (BitVec.ofNat 8 i.val)) ∧
    (∀ i, i < 11 → (readReg s (0x2C00 + 4 * i)).1 = 0#24 ++ romAesRcon i) ∧
    (∀ i, i < 12 → (readReg s (0x2C40 + 4 * i)).1 = romCamSigma i)

/-- R33, R300: the fields of STATUS and the codes of ERRCODE; ERROR reads as ERRCODE != 0 and the reserved fields
read 0. -/
def Obligations.StatusWordHoldsItsFields : Prop :=
  ∀ s : State,
    (regValue s .status).getLsbD 0 = s.busy ∧ (regValue s .status).getLsbD 1 = decide (s.errcode ≠ .noError) ∧
    (regValue s .status).extractLsb' 2 2 = 0#2 ∧
    (regValue s .status).extractLsb' 4 4 =
      (match s.errcode with
        | .noError => 0#4
        | .invalidKeyLength => 1#4
        | .notInitialized => 2#4
        | .illegalCommand => 3#4) ∧
    (regValue s .status).getLsbD 8 = s.aesValid ∧ (regValue s .status).getLsbD 9 = s.camValid ∧
    (regValue s .status).extractLsb' 10 22 = 0#22

/-! ### The shared tables -/

/-- R132: ROM_GF_MUL2[b] = mul2(b), the product of b and 0x02. -/
def Obligations.GfMul2TableIsMultiplicationByX : Prop :=
  ∀ b : Byte, romGfMul2 b = (b <<< 1) ^^^ (if b.getLsbD 7 then 0x1B#8 else 0x00#8) ∧ romGfMul2 b = gfMul b 0x02#8

/-- R133: ROM_AES_SBOX[x] = A(inv(x)), with inv(0) = 0. -/
def Obligations.AesSboxIsTheAffineImageOfTheInverse : Prop :=
  romAesSbox 0x00#8 = sboxAffine 0x00#8 ∧
  ∀ x : Byte, x ≠ 0x00#8 → ∃ y : Byte, gfMul x y = 0x01#8 ∧ romAesSbox x = sboxAffine y

/-- R134: ROM_AES_INV_SBOX[y] is the unique x with ROM_AES_SBOX[x] = y. -/
def Obligations.AesInverseSboxInvertsTheSbox : Prop :=
  ∀ x y : Byte, romAesSbox x = y ↔ romAesInvSbox y = x

/-- R137, R138, R139: Camellia boxes 2, 3 and 4 from box 1. -/
def Obligations.CamelliaBoxesAreRotationsOfBoxOne : Prop :=
  ∀ x : Byte, romCamSbox2 x = (romCamSbox1 x).rotateLeft 1 ∧ romCamSbox3 x = (romCamSbox1 x).rotateLeft 7 ∧
    romCamSbox4 x = romCamSbox1 (x.rotateLeft 1)

/-- R144, R225: the entries of the two subkey tables write every word of their subkey sequence exactly once, and
their total shifts are below 192. -/
def Obligations.SubkeyTablesCoverEveryWordOnce : Prop :=
  romCamKs1.length = 26 ∧ romCamKs2.length = 34 ∧
  romCamKs1.map SubkeyEntry.index = (List.range 26).map (2 * ·) ∧
  romCamKs2.map SubkeyEntry.index = (List.range 34).map (2 * ·) ∧
  (∀ e ∈ romCamKs1, e.shift < 192 ∧ (e.quad = .kl ∨ e.quad = .ka)) ∧ ∀ e ∈ romCamKs2, e.shift < 192

/-! ### Encoding -/

/-- R101, R105: a word is ILLEGAL when v[31:3] != 0 or v[1:0] = 0b00; any other decodes to the command that ALG and OP
select. -/
def Obligations.DecodeFollowsTheFields : Prop :=
  ∀ v : Word,
    ((∃ e, decode v = .error e) ↔ 7 < v.toNat ∨ v.toNat % 4 = 0) ∧
    (v.toNat ≤ 7 → v.toNat % 4 ≠ 0 →
      decode v = .ok
        (if v.toNat / 4 = 0 then
          (if v.toNat % 4 = 1 then .aesInit else if v.toNat % 4 = 2 then .aesEnc else .aesDec)
        else (if v.toNat % 4 = 1 then .camInit else if v.toNat % 4 = 2 then .camEnc else .camDec)))

/-- R102, R106: decode and encode agree for all six commands, and no other word decodes to a command. -/
def Obligations.DecodeAndEncodeAgree : Prop :=
  ∀ (i : Instr) (v : Word), i.WellFormed → (decode v = .ok i ↔ v = encode i)

/-- R109: a transaction's 64-bit word decodes to that transaction, and a 64-bit value decodes only where it is a
transaction's word. -/
def Obligations.TransactionWordsRoundTrip : Prop :=
  ∀ (t : Transaction) (w : BitVec 64), decodeTransaction w = .ok t ↔ w = encodeTransaction t

/-- R102, R109: words written out from the encodings decode to what they stand for; two reserved words and a read with
data do not. -/
def Obligations.WrittenOutWordsDecode : Prop :=
  decode 0b00000000000000000000000000000001#32 = .ok .aesInit ∧
  decode 0b00000000000000000000000000000011#32 = .ok .aesDec ∧
  decode 0b00000000000000000000000000000110#32 = .ok .camEnc ∧
  decode 0b00000000000000000000000000000100#32 = .error .illegalOp ∧
  decode 0b00000000000000000000000000001001#32 = .error .reservedBits ∧
  decodeTransaction 0x8000000800000010#64 = .ok (.wr 0x008#14 0x10#32) ∧
  decodeTransaction 0x0000000400000000#64 = .ok (.rd 0x004#14) ∧
  decodeTransaction 0x0000000400000001#64 = .error .readData

/-! ### The step -/

/-- R46, R101: when the engine takes the next step and PENDING decodes to i, the step is exec of i, in the state as it
stands. -/
def Obligations.StepExecutesTheDecodedCommand : Prop :=
  ∀ (s : State) (i : Instr), engineNext s = true → decode s.pending = .ok i → i.WellFormed → step s = exec i s

/-- A word of 32 bits placed by `withFetchWord` is decoded and run by the very next step, in every state (the model's
own placing of a program: log entry 9). -/
def Obligations.PlacedWordRunsNext : Prop :=
  ∀ (s : State) (w : Nat) (i : Instr), decodeTableWord 32 w = some i →
    step (s.withFetchWord 32 w) = exec i (s.withFetchWord 32 w) ∧
      SameAesContext s (s.withFetchWord 32 w) ∧ SameCamContext s (s.withFetchWord 32 w) ∧
      SameOperands s (s.withFetchWord 32 w) ∧ (s.withFetchWord 32 w).dout = s.dout

/-- R105, R303: the completion of an illegal word sets ERRCODE to 3 and BUSY to 0 and leaves everything else as it
was. -/
def Obligations.IllegalWordCompletesWithIllegalCommand : Prop :=
  ∀ s : State, engineNext s = true → (7 < s.pending.toNat ∨ s.pending.toNat % 4 = 0) →
    step s = .next { s with errcode := .illegalCommand, busy := false }

/-- R305: a completion reports the first of the checks that holds, in the order ILLEGAL_COMMAND, then
INVALID_KEY_LENGTH for an INIT or NOT_INITIALIZED for an ENC or DEC, and else NONE; it always clears BUSY.
A reset takes precedence over a pending completion: where the completion is due and the platform takes reset next, the
step is the reset's, and every register then reads as after reset, so nothing of the command is applied. -/
def Obligations.CompletionReportsTheFirstFailedCheck : Prop :=
  ∀ s : State,
    (engineNext s = true → ∃ t, step s = .next t ∧ t.errcode = completionCode s ∧ t.busy = false) ∧
    ∀ rest, s.inputs = .reset :: rest → engineReady s = true → s.FaultFree →
      ∃ t, step s = .next t ∧ t.inputs = rest ∧ t.busy = false ∧ t.errcode = .noError ∧
        ∀ r : Reg, regValue t r = regValue State.reset r

/-- R302, R304: a completion with an error leaves the state as it was but for ERRCODE and BUSY, and STATUS.ERROR then
reads 1. -/
def Obligations.ErrorsChangeOnlyErrcodeAndBusy : Prop :=
  ∀ s : State, engineNext s = true → completionCode s ≠ .noError →
    ∃ t, t = { s with errcode := completionCode s, busy := false } ∧ step s = .next t ∧
      (regValue t .status).getLsbD 1 = true

/-- R308: a state with a recorded fault stops at every step but a reset, and a step stops for no other reason.
That the quiescent state answers its fault, and that a reset is still taken there, is the model's form of R308 and R330
(log entries 4 and 13). -/
def Obligations.StepStopsExactlyOnARecordedFault : Prop :=
  ∀ s : State,
    ((∃ t, step s = .next t) ↔ (resetNext s = true ∨ s.FaultFree)) ∧
    (∀ f, step s = .fault f → recordedFault s.faults = some f) ∧ ∀ r, step s ≠ .refused r

/-- R48: no step clears the fault mark, a reset included, and only an unsupported access or a write to CMD, KEYLEN, KEYk
or DINk while BUSY = 1 adds to it.
That WRITE_WHILE_BUSY is new only after a supported 32-bit write, and so not after a narrow or misaligned one, is the
model's reading of R73 beside R341 (log entry 12). -/
def Obligations.FaultMarkIsSticky : Prop :=
  ∀ s t : State, step s = .next t →
    (s.faults.unsupportedAccess = true → t.faults.unsupportedAccess = true) ∧
    (s.faults.writeWhileBusy = true → t.faults.writeWhileBusy = true) ∧
    (t.faults.unsupportedAccess = true → s.faults.unsupportedAccess = true ∨
      ∃ width off rest, (s.inputs = .read width off :: rest ∨ ∃ v, s.inputs = .write width off v :: rest) ∧
        (width ≠ 32 ∨ off % 4 ≠ 0 ∨ 0x3000 ≤ off)) ∧
    (t.faults.writeWhileBusy = true → s.faults.writeWhileBusy = true ∨
      (s.busy = true ∧ ∃ off v rest r, s.inputs = .write 32 off v :: rest ∧ regAt off = some r ∧
        (r = .cmd ∨ r = .keylen ∨ (∃ k, r = .key k) ∨ ∃ k, r = .din k)))

/-! ### Rules of the whole machine -/

/-- R49, R50: every step keeps both context invariants. -/
def Obligations.StepKeepsContextInvariants : Prop :=
  ∀ s t : State, ContextInv s → step s = .next t → ContextInv t

/-- R33, R163, R221, R223, R226: every step keeps a valid context the schedule of some key: the AES words follow the key
expansion's recurrence, and the Camellia words are derived from KL and KR and the subkey table, with KR = 0 for the 18
rounds of a 16-byte key. -/
def Obligations.StepKeepsSchedulesWellMade : Prop :=
  ∀ s t : State, ContextInv s → ScheduleInv s → step s = .next t → ScheduleInv t

/-- R51, R33: a context changes only at the completion of a successful INIT of its own cipher or at reset, and only
reset clears a VALID bit. -/
def Obligations.ContextsChangeOnlyAtInitOrReset : Prop :=
  ∀ s t : State, step s = .next t →
    (SameAesContext s t ∨ resetNext s = true ∨
      (engineNext s = true ∧ s.pending = 0x00000001#32 ∧ SupportedLength s.keylen ∧ t.errcode = .noError ∧
        t.aesValid = true)) ∧
    (SameCamContext s t ∨ resetNext s = true ∨
      (engineNext s = true ∧ s.pending = 0x00000005#32 ∧ SupportedLength s.keylen ∧ t.errcode = .noError ∧
        t.camValid = true))

/-- R38, R348: DOUT changes only at the completion of a successful ENC or DEC or at reset. -/
def Obligations.OutputChangesOnlyAtABlockCommandOrReset : Prop :=
  ∀ s t : State, step s = .next t →
    t.dout = s.dout ∨ resetNext s = true ∨
      (engineNext s = true ∧ t.errcode = .noError ∧
        (s.pending = 0x00000002#32 ∨ s.pending = 0x00000003#32 ∨ s.pending = 0x00000006#32 ∨
          s.pending = 0x00000007#32))

/-- R103, R348: the engine never changes KEYLEN, KEY or DIN; they change only by the host's own write while BUSY = 0 or
at reset. -/
def Obligations.OperandsChangeOnlyByHostWriteOrReset : Prop :=
  ∀ s t : State, step s = .next t →
    SameOperands s t ∨ resetNext s = true ∨
      (s.busy = false ∧ ∃ off v rest r, s.inputs = .write 32 off v :: rest ∧ regAt off = some r ∧
        (r = .keylen ∨ (∃ k, r = .key k) ∨ ∃ k, r = .din k))

/-- R33, R348: BUSY is set only by a write to CMD and cleared only by the completion step or reset; while it is set,
PENDING and the operands keep their values. -/
def Obligations.BusyFollowsCommandWriteAndCompletion : Prop :=
  ∀ s t : State, step s = .next t →
    (s.busy = true → t.busy = false → engineNext s = true ∨ resetNext s = true) ∧
    (s.busy = false → t.busy = true → ∃ v rest, s.inputs = .write 32 0x000 v :: rest ∧ t.pending = v) ∧
    (s.busy = true → t.busy = true → t.pending = s.pending ∧ SameOperands s t)

/-- R340, R343: with no reset and no access the rules forbid while BUSY = 1, a latched command comes to its completion
step after at most its remaining latency, with PENDING and the operands of the CMD write. -/
def Obligations.LatchedCommandReachesCompletion : Prop :=
  ∀ s : State, s.busy = true → s.FaultFree → (∀ op ∈ s.inputs, op.allowedWhileBusy = true) →
    ∃ k t, k ≤ s.latLeft ∧ run k s = .next t ∧ engineNext t = true ∧ t.pending = s.pending ∧ SameOperands s t ∧
      SameAesContext s t ∧ SameCamContext s t ∧ t.dout = s.dout

/-- R112, R343, R344: `wait` ends, and its last read, with BUSY = 0, returns the STATUS word that holds the outcome. -/
def Obligations.WaitEndsWithTheOutcome : Prop :=
  ∀ (s : State) (rest : List HostOp), s.inputs = .wait :: rest → s.FaultFree →
    ∃ k t, k ≤ s.latLeft + 2 ∧ run k s = .next t ∧ t.inputs = rest ∧ t.busy = false ∧ t.FaultFree ∧
      t.observed.getLast? = some (regValue t .status) ∧
      (s.busy = true → t.errcode = completionCode s) ∧ (s.busy = false → SameRegisters s t)

/-! ### The AES commands -/

/-- R163, R164, R165, R166, R168: aes.init with a supported KEYLEN completes; the first Nk words of AES_RK are the key's,
the others up to 4(Nr+1) follow the expansion's recurrence, the rest are 0; AES_NR, AES_VALID and ERRCODE are set. -/
def Obligations.AesInitExpandsTheKey : Prop :=
  ∀ s : State, SupportedLength s.keylen → ∃ t, exec .aesInit s = .next t ∧
    t.aesNr.toNat = s.keylen.toNat / 4 + 6 ∧ t.aesValid = true ∧ t.errcode = .noError ∧ t.busy = false ∧
    (∀ i : Fin 8, i.val < s.keylen.toNat / 4 → t.aesRk[i.val] = s.key[i]) ∧
    AesRecurrence t.aesRk t.aesNr.toNat ∧
    (∀ i : Fin 60, 4 * (t.aesNr.toNat + 1) ≤ i.val → t.aesRk[i] = 0#32) ∧
    (4 * (t.aesNr.toNat + 1) = 44 ∨ 4 * (t.aesNr.toNat + 1) = 52 ∨ 4 * (t.aesNr.toNat + 1) = 60)

/-- R301, R302: an INIT with any other KEYLEN ends with INVALID_KEY_LENGTH and changes nothing but ERRCODE and BUSY. -/
def Obligations.InitRejectsOtherKeyLengths : Prop :=
  ∀ (s : State) (i : Instr), (i = .aesInit ∨ i = .camInit) → ¬ SupportedLength s.keylen →
    exec i s = .next { s with errcode := .invalidKeyLength, busy := false }

/-- R302: an ENC or DEC of a cipher whose VALID bit is 0 ends with NOT_INITIALIZED and changes nothing but ERRCODE and
BUSY. -/
def Obligations.BlockCommandsNeedTheirContext : Prop :=
  ∀ s : State,
    (s.aesValid = false → ∀ i, (i = .aesEnc ∨ i = .aesDec) →
      exec i s = .next { s with errcode := .notInitialized, busy := false }) ∧
    (s.camValid = false → ∀ i, (i = .camEnc ∨ i = .camDec) →
      exec i s = .next { s with errcode := .notInitialized, busy := false })

/-- R180 to R187: aes.enc with AES_VALID = 1 completes, and DOUT is reached from DIN by AddRoundKey 0, Nr-1 rounds of
SubBytes, ShiftRows, the FIPS-197 MixColumns matrix and AddRoundKey, and a last round without MixColumns; nothing but
DOUT, ERRCODE and BUSY changes. `g k` is the grid after the AddRoundKey of round k. -/
def Obligations.AesEncIsTheCipherOfItsRoundKeys : Prop :=
  ∀ s : State, s.aesValid = true → 1 ≤ s.aesNr.toNat →
    ∃ (d : Vector Word 4) (g : Nat → Fin 4 → Fin 4 → Byte),
      exec .aesEnc s = .next { s with dout := d, errcode := .noError, busy := false } ∧
      (∀ i c, g 0 i c = columnByte s.din i c ^^^ roundKeyByte s 0 i c) ∧
      (∀ k, 1 ≤ k → k < s.aesNr.toNat → ∀ i c,
        g k i c = matrixRow mixMatrix (fun j => romAesSbox (g (k - 1) j (c + j))) i ^^^ roundKeyByte s k i c) ∧
      (∀ i c, columnByte d i c =
        romAesSbox (g (s.aesNr.toNat - 1) i (c + i)) ^^^ roundKeyByte s s.aesNr.toNat i c)

/-- R200 to R205: aes.dec with AES_VALID = 1 completes, and DOUT is reached from DIN by AddRoundKey Nr, Nr-1 rounds, in
descending order, of InvShiftRows, InvSubBytes, AddRoundKey and the FIPS-197 InvMixColumns matrix, and a last round
without InvMixColumns; nothing but DOUT, ERRCODE and BUSY changes. `g k` is the grid before the round with key k - 1. -/
def Obligations.AesDecIsTheInverseCipherOfItsRoundKeys : Prop :=
  ∀ s : State, s.aesValid = true → 1 ≤ s.aesNr.toNat →
    ∃ (d : Vector Word 4) (g : Nat → Fin 4 → Fin 4 → Byte),
      exec .aesDec s = .next { s with dout := d, errcode := .noError, busy := false } ∧
      (∀ i c, g s.aesNr.toNat i c = columnByte s.din i c ^^^ roundKeyByte s s.aesNr.toNat i c) ∧
      (∀ k, 1 ≤ k → k < s.aesNr.toNat → ∀ i c,
        g k i c = matrixRow invMixMatrix
          (fun j => romAesInvSbox (g (k + 1) j (c - j)) ^^^ roundKeyByte s k j c) i) ∧
      (∀ i c, columnByte d i c = romAesInvSbox (g 1 i (c - i)) ^^^ roundKeyByte s 0 i c)

/-- R206: with a valid AES context of any round count, aes.enc on DIN = P, then DOUT written into DIN, then aes.dec
gives DOUT = P. -/
def Obligations.AesDecryptionUndoesEncryption : Prop :=
  ∀ s : State, s.aesValid = true → ∃ t u : State,
    exec .aesEnc s = .next t ∧ exec .aesDec { t with din := t.dout } = .next u ∧ u.dout = s.din

/-- R206 from KEY and KEYLEN: after a successful aes.init, for every supported key length, every key and every block. -/
def Obligations.AesRoundTripAfterInit : Prop :=
  ∀ (s : State) (p : Vector Word 4), SupportedLength s.keylen → ∃ t u v : State,
    exec .aesInit s = .next t ∧ exec .aesEnc { t with din := p } = .next u ∧
      exec .aesDec { u with din := u.dout } = .next v ∧ v.dout = p ∧ v.errcode = .noError

/-- R167: two successful aes.init with the same KEYLEN and the same bytes KEYB[0..KEYLEN-1] leave the same AES_RK and
AES_NR, whatever the state before each. -/
def Obligations.AesScheduleDependsOnlyOnTheKey : Prop :=
  ∀ s s' t t' : State, SupportedLength s.keylen → s'.keylen = s.keylen →
    (∀ i, i < s.keylen.toNat → (keyBytes s'.key)[i]? = (keyBytes s.key)[i]?) →
    exec .aesInit s = .next t → exec .aesInit s' = .next t' → t'.aesRk = t.aesRk ∧ t'.aesNr = t.aesNr

/-! ### The Camellia commands -/

/-- R221 to R229: cam.init with a supported KEYLEN completes; KL and KR come from the key (a 24-byte key's KR holds the
complement of its first half), KA and KB from the six-round derivation, and each subkey is the window its table entry
gives; CAM_NR is 18 or 24, CAM_VALID and ERRCODE are set, and the subkey words from 52 on are 0 for a 16-byte key. -/
def Obligations.CamInitDerivesTheContext : Prop :=
  ∀ s : State, SupportedLength s.keylen → ∃ t, exec .camInit s = .next t ∧
    t.camNr = (if s.keylen = 16#32 then 18#32 else 24#32) ∧ t.camValid = true ∧ t.errcode = .noError ∧
    t.busy = false ∧
    (∀ i : Fin 4, t.camKm[i.val] = s.key[i.val]) ∧
    (s.keylen = 16#32 → ∀ i : Fin 4, t.camKm[i.val + 4] = 0#32) ∧
    (s.keylen = 24#32 → t.camKm[4] = s.key[4] ∧ t.camKm[5] = s.key[5] ∧ t.camKm[6] = ~~~ t.camKm[4] ∧
      t.camKm[7] = ~~~ t.camKm[5]) ∧
    (s.keylen = 32#32 → ∀ i : Fin 4, t.camKm[i.val + 4] = s.key[i.val + 4]) ∧
    MaterialDerived t.camKm ∧
    SubkeysFollowTable t.camKm t.camSk (if s.keylen = 16#32 then romCamKs1 else romCamKs2) ∧
    (s.keylen = 16#32 → ∀ i : Fin 68, 52 ≤ i.val → t.camSk[i] = 0#32)

/-- R224: the two words RotWin(Q, s) returns are the high 64 bits of Q rotated left by s mod 128, for 0 <= s < 192. -/
def Obligations.RotWinIsTheTopOfTheRotation : Prop :=
  ∀ (q : Quad) (n : Nat), n < 192 →
    (rotWin q n).1 ++ (rotWin q n).2 = (q.toBits.rotateLeft (n % 128)).extractLsb' 64 64

/-- R253: on 64-bit halves, the F-function of R251 to R253 is the byte equations of Camellia's P-function on the
S-outputs t1 to t8. -/
def Obligations.CamelliaFunctionFollowsTheByteEquations : Prop :=
  ∀ x1 x2 k1 k2 : Word, (camF x1 x2 k1 k2).1 ++ (camF x1 x2 k1 k2).2 = camF64 (x1 ++ x2) (k1 ++ k2)

/-- R256: CamFLInv(CamFL(x, k), k) = x for every x and k, and the other way round. -/
def Obligations.InverseFlUndoesFl : Prop :=
  ∀ x y kl kr : Word,
    camFLInv (camFL x y kl kr).1 (camFL x y kl kr).2 kl kr = (x, y) ∧
    camFL (camFLInv x y kl kr).1 (camFLInv x y kl kr).2 kl kr = (x, y)

/-- R227, R250 to R258: cam.enc with CAM_VALID = 1 completes, and DOUT is reached from DIN by whitening with kw1 and kw2,
nr Feistel rounds with the FL layers after rounds 6m < nr, and the swapped halves whitened with kw3 and kw4; nothing
but DOUT, ERRCODE and BUSY changes. `l j` and `r j` are the halves after round j and its FL layer. -/
def Obligations.CamEncIsTheFeistelNetwork : Prop :=
  ∀ s : State, s.camValid = true → (s.camNr = 18#32 ∨ s.camNr = 24#32) →
    ∃ (d : Vector Word 4) (l r : Nat → BitVec 64),
      exec .camEnc s = .next { s with dout := d, errcode := .noError, busy := false } ∧
      l 0 = leftHalf s.din ^^^ subkey64 s.camSk 0 ∧ r 0 = rightHalf s.din ^^^ subkey64 s.camSk 2 ∧
      (∀ j, 1 ≤ j → j ≤ s.camNr.toNat →
        let x := r (j - 1) ^^^ camF64 (l (j - 1)) (subkey64 s.camSk (4 + 2 * (j - 1) + 4 * ((j - 1) / 6)))
        let y := l (j - 1)
        if j % 6 = 0 ∧ j < s.camNr.toNat then
          l j = camFL64 x (subkey64 s.camSk (16 * (j / 6))) ∧
            r j = camFLInv64 y (subkey64 s.camSk (16 * (j / 6) + 2))
        else l j = x ∧ r j = y) ∧
      leftHalf d = r s.camNr.toNat ^^^ subkey64 s.camSk (if s.camNr = 18#32 then 48 else 64) ∧
      rightHalf d = l s.camNr.toNat ^^^ subkey64 s.camSk (if s.camNr = 18#32 then 50 else 66)

/-- R259: cam.dec with CAM_VALID = 1 completes, and DOUT is reached from DIN by whitening with kw3 and kw4, the rounds
from nr down to 1 with the FL layers before rounds 6m and their two subkey pairs exchanged, and the swapped halves
whitened with kw1 and kw2; nothing but DOUT, ERRCODE and BUSY changes. `l j` and `r j` are the halves before round j. -/
def Obligations.CamDecIsTheReversedFeistelNetwork : Prop :=
  ∀ s : State, s.camValid = true → (s.camNr = 18#32 ∨ s.camNr = 24#32) →
    ∃ (d : Vector Word 4) (l r : Nat → BitVec 64),
      exec .camDec s = .next { s with dout := d, errcode := .noError, busy := false } ∧
      l s.camNr.toNat = leftHalf s.din ^^^ subkey64 s.camSk (if s.camNr = 18#32 then 48 else 64) ∧
      r s.camNr.toNat = rightHalf s.din ^^^ subkey64 s.camSk (if s.camNr = 18#32 then 50 else 66) ∧
      (∀ j, 1 ≤ j → j ≤ s.camNr.toNat →
        let x := r j ^^^ camF64 (l j) (subkey64 s.camSk (4 + 2 * (j - 1) + 4 * ((j - 1) / 6)))
        let y := l j
        if (j - 1) % 6 = 0 ∧ 1 < j then
          l (j - 1) = camFL64 x (subkey64 s.camSk (16 * ((j - 1) / 6) + 2)) ∧
            r (j - 1) = camFLInv64 y (subkey64 s.camSk (16 * ((j - 1) / 6)))
        else l (j - 1) = x ∧ r (j - 1) = y) ∧
      leftHalf d = r 0 ^^^ subkey64 s.camSk 0 ∧ rightHalf d = l 0 ^^^ subkey64 s.camSk 2

/-- R260: with a valid Camellia context, cam.enc on DIN = P, then DOUT written into DIN, then cam.dec gives
DOUT = P. -/
def Obligations.CamDecryptionUndoesEncryption : Prop :=
  ∀ s : State, s.camValid = true → ∃ t u : State,
    exec .camEnc s = .next t ∧ exec .camDec { t with din := t.dout } = .next u ∧ u.dout = s.din

/-- R260 from KEY and KEYLEN: after a successful cam.init, for every supported key length, every key and every block. -/
def Obligations.CamRoundTripAfterInit : Prop :=
  ∀ (s : State) (p : Vector Word 4), SupportedLength s.keylen → ∃ t u v : State,
    exec .camInit s = .next t ∧ exec .camEnc { t with din := p } = .next u ∧
      exec .camDec { u with din := u.dout } = .next v ∧ v.dout = p ∧ v.errcode = .noError

/-- R230: two successful cam.init with the same KEYLEN and the same key bytes leave the same CAM_KM, CAM_SK and CAM_NR;
CAM_NR is 18 for KEYLEN = 16, with 52 subkey words and zeros after them, and 24 otherwise. -/
def Obligations.CamContextDependsOnlyOnTheKey : Prop :=
  ∀ s s' t t' : State, SupportedLength s.keylen → s'.keylen = s.keylen →
    (∀ i, i < s.keylen.toNat → (keyBytes s'.key)[i]? = (keyBytes s.key)[i]?) →
    exec .camInit s = .next t → exec .camInit s' = .next t' →
    t'.camKm = t.camKm ∧ t'.camSk = t.camSk ∧ t'.camNr = t.camNr ∧
      t.camNr = (if s.keylen = 16#32 then 18#32 else 24#32) ∧
      (s.keylen = 16#32 → ∀ i : Fin 68, 52 ≤ i.val → t.camSk[i] = 0#32)

/-- R228: a 24-byte key and the 32-byte key made of it followed by the complement of its bytes 16 to 23 give the same
CAM_KM, CAM_SK and CAM_NR. -/
def Obligations.Complemented192BitKeyIsA256BitKey : Prop :=
  ∀ s s' : State, s.keylen = 24#32 → s'.keylen = 32#32 →
    (∀ k : Fin 6, s'.key[k.val] = s.key[k.val]) → s'.key[6] = ~~~ s.key[4] → s'.key[7] = ~~~ s.key[5] →
    ∃ t t', exec .camInit s = .next t ∧ exec .camInit s' = .next t' ∧
      t'.camKm = t.camKm ∧ t'.camSk = t.camSk ∧ t'.camNr = t.camNr ∧ t.camNr = 24#32

/-! ### Frames and independence -/

/-- The frame of aes.init and cam.init, whatever their outcome (R51, R52, R103): every register but the schedule and
round count of the command's own cipher and STATUS reads as before, and of STATUS only ERRCODE, BUSY and the own VALID
bit may change. -/
def Obligations.InitFrame : Prop :=
  ∀ s t : State,
    (exec .aesInit s = .next t →
      (∀ r : Reg, r ≠ .status → r ≠ .aesNr → (∀ i, r ≠ .aesRk i) → regValue t r = regValue s r) ∧
      SameCamContext s t ∧ SameOutside s t) ∧
    (exec .camInit s = .next t →
      (∀ r : Reg, r ≠ .status → r ≠ .camNr → (∀ i, r ≠ .camKm i) → (∀ i, r ≠ .camSk i) →
        regValue t r = regValue s r) ∧
      SameAesContext s t ∧ SameOutside s t)

/-- The frame of aes.enc, aes.dec, cam.enc and cam.dec, whatever their outcome (R51, R103): every register but DOUTk and
STATUS reads as before, and of STATUS only ERRCODE and BUSY may change. -/
def Obligations.BlockCommandFrame : Prop :=
  ∀ (s t : State) (i : Instr), (i = .aesEnc ∨ i = .aesDec ∨ i = .camEnc ∨ i = .camDec) →
    exec i s = .next t →
      (∀ r : Reg, r ≠ .status → (∀ k, r ≠ .dout k) → regValue t r = regValue s r) ∧
      SameAesContext s t ∧ SameCamContext s t ∧ SameOutside s t

/-- R52: no AES command reads or writes the Camellia context, and no Camellia command reads or writes the AES context:
with another context of the other cipher in its place, the command does the same and leaves that context alone. -/
def Obligations.ContextsAreIndependent : Prop :=
  ∀ (s t u : State) (i : Instr), exec i s = .next t →
    ((i = .aesInit ∨ i = .aesEnc ∨ i = .aesDec) →
      SameCamContext s t ∧ exec i (withCamContext s u) = .next (withCamContext t u)) ∧
    ((i = .camInit ∨ i = .camEnc ∨ i = .camDec) →
      SameAesContext s t ∧ exec i (withAesContext s u) = .next (withAesContext t u))

/-! ### The host's notation -/

/-- R111: the expansion of `key`, run from BUSY = 0, leaves KEYLEN = n and the n key bytes in KEYB[0..n-1], and changes
no KEY register from ceil(n/4) on and no other register. -/
def Obligations.KeyNotationLoadsTheKey : Prop :=
  ∀ (s : State) (k : List Byte) (rest : List HostOp), keyStringWellFormed k = true →
    s.inputs = keyOps k ++ rest → s.busy = false → s.FaultFree →
    ∃ t, run (1 + (k.length + 3) / 4) s = .next t ∧ t.inputs = rest ∧ t.keylen.toNat = k.length ∧
      keyString t.key k.length = k ∧
      (∀ j : Fin 8, (k.length + 3) / 4 ≤ j.val → t.key[j] = s.key[j]) ∧
      (∀ r : Reg, r ≠ .keylen → (∀ j, r ≠ .key j) → regValue t r = regValue s r) ∧ t.FaultFree

/-- R113: the expansion of `blk`, run from BUSY = 0, leaves the 16 bytes in DINB[0..15] and changes no other register;
that of `out` observes DOUT0 to DOUT3, which hold DOUTB[0..15]. -/
def Obligations.BlockNotationLoadsAndReadsABlock : Prop :=
  (∀ (s : State) (b : Block) (rest : List HostOp), s.inputs = blkOps b ++ rest → s.busy = false → s.FaultFree →
    ∃ t, run 4 s = .next t ∧ t.inputs = rest ∧ blockOfWords t.din = b ∧
      (∀ r : Reg, (∀ k, r ≠ .din k) → regValue t r = regValue s r) ∧ t.FaultFree) ∧
  (∀ (s : State) (rest : List HostOp), s.inputs = outOps ++ rest → s.busy = false → s.FaultFree →
    ∃ t, run 4 s = .next t ∧ t.inputs = rest ∧ t.observed = s.observed ++ s.dout.toList ∧
      wordsOfBlock (blockOfWords s.dout) = s.dout ∧ SameRegisters s t ∧ t.FaultFree)
end

