-- ==== Sys2Proof/Laws/Bytes.lean ====
section
/-! SUPPORT. Bytes and words: taking a word apart and putting it together again (R17, R72). -/

namespace Sys2Proof.Machine

/-- Byte j of a word put together from four bytes is the j-th of them. -/
theorem wordByte_ofBytes (a b c d : Byte) :
    wordByte (ofBytes a b c d) 0 = a ∧ wordByte (ofBytes a b c d) 1 = b ∧
      wordByte (ofBytes a b c d) 2 = c ∧ wordByte (ofBytes a b c d) 3 = d := by
  refine ⟨?_, ?_, ?_, ?_⟩ <;>
  · apply BitVec.eq_of_getLsbD_eq
    intro i hi
    simp only [wordByte, ofBytes, BitVec.getLsbD_extractLsb', BitVec.getLsbD_append]
    interval_cases i <;> simp

@[simp] theorem wordByte_ofBytes_zero (a b c d : Byte) : wordByte (ofBytes a b c d) 0 = a :=
  (wordByte_ofBytes a b c d).1

@[simp] theorem wordByte_ofBytes_one (a b c d : Byte) : wordByte (ofBytes a b c d) 1 = b :=
  (wordByte_ofBytes a b c d).2.1

@[simp] theorem wordByte_ofBytes_two (a b c d : Byte) : wordByte (ofBytes a b c d) 2 = c :=
  (wordByte_ofBytes a b c d).2.2.1

@[simp] theorem wordByte_ofBytes_three (a b c d : Byte) : wordByte (ofBytes a b c d) 3 = d :=
  (wordByte_ofBytes a b c d).2.2.2

/-- A word is put together from its four bytes. -/
@[simp] theorem ofBytes_wordByte (w : Word) :
    ofBytes (wordByte w 0) (wordByte w 1) (wordByte w 2) (wordByte w 3) = w := by
  apply BitVec.eq_of_getLsbD_eq
  intro i hi
  simp only [wordByte, ofBytes, BitVec.getLsbD_extractLsb', BitVec.getLsbD_append]
  interval_cases i <;> simp

/-- XOR acts on each byte alone. -/
theorem wordByte_xor (v w : Word) (j : Nat) : wordByte (v ^^^ w) j = wordByte v j ^^^ wordByte w j := by
  apply BitVec.eq_of_getLsbD_eq
  intro i hi
  simp [wordByte, hi]

/-- Byte i of a block of four registers, `j = i mod 4` of register `i div 4`. -/
@[simp] theorem getElem_blockOfWords (w : Vector Word 4) (i : Nat) (h : i < 16) :
    (blockOfWords w)[i] = wordByte (w[i / 4]'(by omega)) (i % 4) := by simp [blockOfWords]

/-- Register k of a block holds its bytes 4k to 4k+3. -/
@[simp] theorem getElem_wordsOfBlock (b : Block) (k : Nat) (h : k < 4) :
    (wordsOfBlock b)[k] =
      ofBytes (b[4 * k]'(by omega)) (b[4 * k + 1]'(by omega)) (b[4 * k + 2]'(by omega)) (b[4 * k + 3]'(by omega)) := by
  simp [wordsOfBlock]

/-- The bytes of a block's registers are the block. -/
theorem blockOfWords_wordsOfBlock (b : Block) : blockOfWords (wordsOfBlock b) = b := by
  apply Vector.ext
  intro i hi
  simp only [getElem_blockOfWords, getElem_wordsOfBlock]
  interval_cases i <;> simp

/-- The registers of four registers' bytes are the four registers. -/
theorem wordsOfBlock_blockOfWords (w : Vector Word 4) : wordsOfBlock (blockOfWords w) = w := by
  apply Vector.ext
  intro i hi
  simp only [getElem_wordsOfBlock, getElem_blockOfWords]
  interval_cases i <;> simp

/-! ### The key string -/

/-- The eight key registers, one by one. -/
theorem key_eq (key : Vector Word 8) :
    key = #v[key[0], key[1], key[2], key[3], key[4], key[5], key[6], key[7]] := by
  apply Vector.ext
  intro i hi
  interval_cases i <;> rfl

/-- The key registers hold 32 bytes, and an INIT of length n reads n of them. -/
theorem length_keyString (key : Vector Word 8) (n : Nat) : (keyString key n).length = min n 32 := by
  rw [key_eq key]
  simp [keyString, keyBytes, unbe32]

/-- Word i of the key string, where it has one, is KEYi. -/
theorem be32_keyString (key : Vector Word 8) (n i : Nat) (h : 4 * i + 3 < n) (h2 : i < 8) :
    be32 (keyString key n) (4 * i) = key[i] := by
  have cut : ∀ j, j < n → (keyString key n).getD j 0 = (keyBytes key).getD j 0 := by
    intro j hj
    simp [keyString, List.getD_eq_getElem?_getD, hj]
  have bytes : keyBytes key = unbe32 key[0] ++ unbe32 key[1] ++ unbe32 key[2] ++ unbe32 key[3] ++
      unbe32 key[4] ++ unbe32 key[5] ++ unbe32 key[6] ++ unbe32 key[7] := by
    conv_lhs => rw [key_eq key]
    simp [keyBytes]
  unfold be32
  rw [cut _ (by omega), cut _ (by omega), cut _ (by omega), cut _ (by omega), bytes]
  interval_cases i <;> simp [unbe32]

/-- Keys with the same first n bytes have the same key string of length n. -/
theorem keyString_congr {k k' : Vector Word 8} {n : Nat}
    (h : ∀ i, i < n → (keyBytes k')[i]? = (keyBytes k)[i]?) : keyString k' n = keyString k n := by
  apply List.ext_getElem?
  intro i
  simp only [keyString, List.getElem?_take]
  split
  · rename_i hi
    rw [h i hi]
  · rfl

end Sys2Proof.Machine
end

