-- ==== Sys2Proof/Laws/Camellia.lean ====
section
/-! SUPPORT. Camellia's steps: each undone by the same step on swapped halves, the bits of a quadruple, and what the
extraction of subkeys writes. -/

namespace Sys2Proof.Machine

/-! ### Halves -/

/-- A round on the swapped halves, with the same subkey, undoes a round. -/
theorem camRound_swap_camRound (h : Halves) (k1 k2 : Word) :
    camRound (camRound h k1 k2).swap k1 k2 = h.swap := by
  simp [camRound, Halves.swap]

/-- An FL layer on the swapped halves, its pairs exchanged, undoes an FL layer. -/
theorem flLayer_swap_flLayer (sk : Vector Word 68) (a b : Nat) (h : Halves) :
    flLayer sk b a (flLayer sk a b h).swap = h.swap := by
  simp [flLayer, Halves.swap, camFL, camFLInv]

/-- Whitening twice changes nothing. -/
theorem whiten_whiten (sk : Vector Word 68) (k : Nat) (h : Halves) : whiten sk k (whiten sk k h) = h := by
  simp [whiten]

/-- Swapping twice changes nothing. -/
theorem swap_swap (h : Halves) : h.swap.swap = h := rfl

/-- The halves of an output's registers are the output. -/
theorem halvesOfWords_registers (h : Halves) : halvesOfWords h.registers = h := rfl

/-- The registers of a block's halves are the block's registers. -/
theorem registers_halvesOfWords (w : Vector Word 4) : (halvesOfWords w).registers = w := by
  apply Vector.ext
  intro i hi
  interval_cases i <;> rfl

/-! ### Quadruples -/

/-- The words of a quadruple are numbered modulo 4. -/
theorem word_mod (q : Quad) (n : Nat) : q.word (n % 4) = q.word n := by simp [Quad.word]

/-- Bit j of a quadruple, from the word that holds it. -/
theorem getLsbD_toBits (q : Quad) (j : Nat) (h : j < 128) :
    q.toBits.getLsbD j = (q.word (3 - j / 32)).getLsbD (j % 32) := by
  obtain ⟨a, b, c, d⟩ := q
  obtain ⟨k, m, rfl, hm, hk⟩ : ∃ k m, j = 32 * k + m ∧ m < 32 ∧ k < 4 :=
    ⟨j / 32, j % 32, by omega, by omega, by omega⟩
  have h1 : (32 * k + m) / 32 = k := by omega
  have h2 : (32 * k + m) % 32 = m := by omega
  rw [h1, h2]
  interval_cases k <;> simp only [Quad.word, Quad.toBits, BitVec.getLsbD_append] <;> split_ifs <;>
    first
    | omega
    | (congr 1; omega)

/-- The quadruple read back from the key-material file. -/
theorem quadAt_file (km : KeyMaterial) (q : QuadName) : quadAt km.file q.base = km.quad q := by
  cases q <;> simp [quadAt, KeyMaterial.file, QuadName.base, KeyMaterial.quad, Quad.words]

/-! ### Subkeys -/

/-- Entries that write neither word k nor leave it to another keep word k. -/
theorem placeSubkeys_miss (km : KeyMaterial) (t : List SubkeyEntry) (sk : Vector Word 68) (k : Nat)
    (h : ∀ e ∈ t, e.index ≠ k ∧ e.index + 1 ≠ k) :
    subkeyWord (t.foldl (placeSubkey km) sk) k = subkeyWord sk k := by
  induction t generalizing sk with
  | nil => rfl
  | cons e t ih =>
    rw [List.foldl_cons, ih _ (fun e' he' => h e' (List.mem_cons_of_mem _ he'))]
    have := h e List.mem_cons_self
    simp only [placeSubkey, subkeyWord, List.getD_eq_getElem?_getD]
    simp [this]

/-- Where no two entries of a table share a word, each entry's two words are the window it names. -/
theorem placeSubkeys_hit (km : KeyMaterial) (t : List SubkeyEntry) (sk : Vector Word 68)
    (hp : t.Pairwise fun a b => b.index ≠ a.index ∧ b.index + 1 ≠ a.index ∧ b.index ≠ a.index + 1)
    (hb : ∀ e ∈ t, e.index + 1 < 68) :
    ∀ e ∈ t, subkeyWord (t.foldl (placeSubkey km) sk) e.index = (rotWin (km.quad e.quad) e.shift).1 ∧
      subkeyWord (t.foldl (placeSubkey km) sk) (e.index + 1) = (rotWin (km.quad e.quad) e.shift).2 := by
  induction t generalizing sk with
  | nil => simp
  | cons e t ih =>
    rw [List.pairwise_cons] at hp
    intro e' he'
    rcases List.mem_cons.1 he' with rfl | he'
    · rw [List.foldl_cons]
      have hb' := hb e' List.mem_cons_self
      rw [placeSubkeys_miss _ _ _ _ (fun a ha => ⟨(hp.1 a ha).1, (hp.1 a ha).2.1⟩),
        placeSubkeys_miss _ _ _ _ (fun a ha => ⟨(hp.1 a ha).2.2, by have := (hp.1 a ha).1; omega⟩)]
      simp [placeSubkey, subkeyWord, List.getD_eq_getElem?_getD, show e'.index < 68 by omega, hb']
    · exact ih _ hp.2 (fun e he => hb e (List.mem_cons_of_mem _ he)) e' he'

end Sys2Proof.Machine
end

