-- ==== Sys2Proof/Laws/State.lean ====
section
/-! SUPPORT. One lemma per field for each update of State that several operations share, true by definition, so that
no later proof unfolds a record update. -/

namespace Sys2Proof.Machine

/-! ### raiseError -/

@[simp] theorem raiseError_busy (e : ErrCode) (s : State) : (raiseError e s).busy = false := rfl

@[simp] theorem raiseError_errcode (e : ErrCode) (s : State) : (raiseError e s).errcode = e := rfl

@[simp] theorem raiseError_aesValid (e : ErrCode) (s : State) : (raiseError e s).aesValid = s.aesValid := rfl

@[simp] theorem raiseError_camValid (e : ErrCode) (s : State) : (raiseError e s).camValid = s.camValid := rfl

@[simp] theorem raiseError_keylen (e : ErrCode) (s : State) : (raiseError e s).keylen = s.keylen := rfl

@[simp] theorem raiseError_key (e : ErrCode) (s : State) : (raiseError e s).key = s.key := rfl

@[simp] theorem raiseError_din (e : ErrCode) (s : State) : (raiseError e s).din = s.din := rfl

@[simp] theorem raiseError_dout (e : ErrCode) (s : State) : (raiseError e s).dout = s.dout := rfl

@[simp] theorem raiseError_aesNr (e : ErrCode) (s : State) : (raiseError e s).aesNr = s.aesNr := rfl

@[simp] theorem raiseError_camNr (e : ErrCode) (s : State) : (raiseError e s).camNr = s.camNr := rfl

@[simp] theorem raiseError_aesRk (e : ErrCode) (s : State) : (raiseError e s).aesRk = s.aesRk := rfl

@[simp] theorem raiseError_camKm (e : ErrCode) (s : State) : (raiseError e s).camKm = s.camKm := rfl

@[simp] theorem raiseError_camSk (e : ErrCode) (s : State) : (raiseError e s).camSk = s.camSk := rfl

@[simp] theorem raiseError_pending (e : ErrCode) (s : State) : (raiseError e s).pending = s.pending := rfl

@[simp] theorem raiseError_faults (e : ErrCode) (s : State) : (raiseError e s).faults = s.faults := rfl

@[simp] theorem raiseError_latLeft (e : ErrCode) (s : State) : (raiseError e s).latLeft = s.latLeft := rfl

@[simp] theorem raiseError_draws (e : ErrCode) (s : State) : (raiseError e s).draws = s.draws := rfl

@[simp] theorem raiseError_inputs (e : ErrCode) (s : State) : (raiseError e s).inputs = s.inputs := rfl

@[simp] theorem raiseError_observed (e : ErrCode) (s : State) : (raiseError e s).observed = s.observed := rfl

/-! ### finish -/

@[simp] theorem finish_busy (s : State) : (finish s).busy = false := rfl

@[simp] theorem finish_errcode (s : State) : (finish s).errcode = .noError := rfl

@[simp] theorem finish_aesValid (s : State) : (finish s).aesValid = s.aesValid := rfl

@[simp] theorem finish_camValid (s : State) : (finish s).camValid = s.camValid := rfl

@[simp] theorem finish_keylen (s : State) : (finish s).keylen = s.keylen := rfl

@[simp] theorem finish_key (s : State) : (finish s).key = s.key := rfl

@[simp] theorem finish_din (s : State) : (finish s).din = s.din := rfl

@[simp] theorem finish_dout (s : State) : (finish s).dout = s.dout := rfl

@[simp] theorem finish_aesNr (s : State) : (finish s).aesNr = s.aesNr := rfl

@[simp] theorem finish_camNr (s : State) : (finish s).camNr = s.camNr := rfl

@[simp] theorem finish_aesRk (s : State) : (finish s).aesRk = s.aesRk := rfl

@[simp] theorem finish_camKm (s : State) : (finish s).camKm = s.camKm := rfl

@[simp] theorem finish_camSk (s : State) : (finish s).camSk = s.camSk := rfl

@[simp] theorem finish_pending (s : State) : (finish s).pending = s.pending := rfl

@[simp] theorem finish_faults (s : State) : (finish s).faults = s.faults := rfl

@[simp] theorem finish_latLeft (s : State) : (finish s).latLeft = s.latLeft := rfl

@[simp] theorem finish_draws (s : State) : (finish s).draws = s.draws := rfl

@[simp] theorem finish_inputs (s : State) : (finish s).inputs = s.inputs := rfl

@[simp] theorem finish_observed (s : State) : (finish s).observed = s.observed := rfl

/-! ### latchCommand -/

@[simp] theorem latchCommand_busy (v : Word) (s : State) : (latchCommand v s).busy = true := rfl

@[simp] theorem latchCommand_errcode (v : Word) (s : State) : (latchCommand v s).errcode = .noError := rfl

@[simp] theorem latchCommand_aesValid (v : Word) (s : State) : (latchCommand v s).aesValid = s.aesValid := rfl

@[simp] theorem latchCommand_camValid (v : Word) (s : State) : (latchCommand v s).camValid = s.camValid := rfl

@[simp] theorem latchCommand_keylen (v : Word) (s : State) : (latchCommand v s).keylen = s.keylen := rfl

@[simp] theorem latchCommand_key (v : Word) (s : State) : (latchCommand v s).key = s.key := rfl

@[simp] theorem latchCommand_din (v : Word) (s : State) : (latchCommand v s).din = s.din := rfl

@[simp] theorem latchCommand_dout (v : Word) (s : State) : (latchCommand v s).dout = s.dout := rfl

@[simp] theorem latchCommand_aesNr (v : Word) (s : State) : (latchCommand v s).aesNr = s.aesNr := rfl

@[simp] theorem latchCommand_camNr (v : Word) (s : State) : (latchCommand v s).camNr = s.camNr := rfl

@[simp] theorem latchCommand_aesRk (v : Word) (s : State) : (latchCommand v s).aesRk = s.aesRk := rfl

@[simp] theorem latchCommand_camKm (v : Word) (s : State) : (latchCommand v s).camKm = s.camKm := rfl

@[simp] theorem latchCommand_camSk (v : Word) (s : State) : (latchCommand v s).camSk = s.camSk := rfl

@[simp] theorem latchCommand_pending (v : Word) (s : State) : (latchCommand v s).pending = v := rfl

@[simp] theorem latchCommand_faults (v : Word) (s : State) : (latchCommand v s).faults = s.faults := rfl

@[simp] theorem latchCommand_latLeft (v : Word) (s : State) : (latchCommand v s).latLeft = latency s.draws v s.keylen := rfl

@[simp] theorem latchCommand_draws (v : Word) (s : State) : (latchCommand v s).draws = s.draws + 1 := rfl

@[simp] theorem latchCommand_inputs (v : Word) (s : State) : (latchCommand v s).inputs = s.inputs := rfl

@[simp] theorem latchCommand_observed (v : Word) (s : State) : (latchCommand v s).observed = s.observed := rfl

/-! ### resetBlock -/

@[simp] theorem resetBlock_busy (s : State) : (resetBlock s).busy = State.reset.busy := rfl

@[simp] theorem resetBlock_errcode (s : State) : (resetBlock s).errcode = State.reset.errcode := rfl

@[simp] theorem resetBlock_aesValid (s : State) : (resetBlock s).aesValid = State.reset.aesValid := rfl

@[simp] theorem resetBlock_camValid (s : State) : (resetBlock s).camValid = State.reset.camValid := rfl

@[simp] theorem resetBlock_keylen (s : State) : (resetBlock s).keylen = State.reset.keylen := rfl

@[simp] theorem resetBlock_key (s : State) : (resetBlock s).key = State.reset.key := rfl

@[simp] theorem resetBlock_din (s : State) : (resetBlock s).din = State.reset.din := rfl

@[simp] theorem resetBlock_dout (s : State) : (resetBlock s).dout = State.reset.dout := rfl

@[simp] theorem resetBlock_aesNr (s : State) : (resetBlock s).aesNr = State.reset.aesNr := rfl

@[simp] theorem resetBlock_camNr (s : State) : (resetBlock s).camNr = State.reset.camNr := rfl

@[simp] theorem resetBlock_aesRk (s : State) : (resetBlock s).aesRk = State.reset.aesRk := rfl

@[simp] theorem resetBlock_camKm (s : State) : (resetBlock s).camKm = State.reset.camKm := rfl

@[simp] theorem resetBlock_camSk (s : State) : (resetBlock s).camSk = State.reset.camSk := rfl

@[simp] theorem resetBlock_pending (s : State) : (resetBlock s).pending = State.reset.pending := rfl

@[simp] theorem resetBlock_faults (s : State) : (resetBlock s).faults = s.faults := rfl

@[simp] theorem resetBlock_latLeft (s : State) : (resetBlock s).latLeft = State.reset.latLeft := rfl

@[simp] theorem resetBlock_draws (s : State) : (resetBlock s).draws = s.draws := rfl

@[simp] theorem resetBlock_inputs (s : State) : (resetBlock s).inputs = s.inputs := rfl

@[simp] theorem resetBlock_observed (s : State) : (resetBlock s).observed = s.observed := rfl

/-! ### recordFault -/

@[simp] theorem recordFault_busy (f : Fault) (s : State) : (recordFault f s).busy = s.busy := by cases f <;> rfl

@[simp] theorem recordFault_errcode (f : Fault) (s : State) : (recordFault f s).errcode = s.errcode := by cases f <;> rfl

@[simp] theorem recordFault_aesValid (f : Fault) (s : State) : (recordFault f s).aesValid = s.aesValid := by cases f <;> rfl

@[simp] theorem recordFault_camValid (f : Fault) (s : State) : (recordFault f s).camValid = s.camValid := by cases f <;> rfl

@[simp] theorem recordFault_keylen (f : Fault) (s : State) : (recordFault f s).keylen = s.keylen := by cases f <;> rfl

@[simp] theorem recordFault_key (f : Fault) (s : State) : (recordFault f s).key = s.key := by cases f <;> rfl

@[simp] theorem recordFault_din (f : Fault) (s : State) : (recordFault f s).din = s.din := by cases f <;> rfl

@[simp] theorem recordFault_dout (f : Fault) (s : State) : (recordFault f s).dout = s.dout := by cases f <;> rfl

@[simp] theorem recordFault_aesNr (f : Fault) (s : State) : (recordFault f s).aesNr = s.aesNr := by cases f <;> rfl

@[simp] theorem recordFault_camNr (f : Fault) (s : State) : (recordFault f s).camNr = s.camNr := by cases f <;> rfl

@[simp] theorem recordFault_aesRk (f : Fault) (s : State) : (recordFault f s).aesRk = s.aesRk := by cases f <;> rfl

@[simp] theorem recordFault_camKm (f : Fault) (s : State) : (recordFault f s).camKm = s.camKm := by cases f <;> rfl

@[simp] theorem recordFault_camSk (f : Fault) (s : State) : (recordFault f s).camSk = s.camSk := by cases f <;> rfl

@[simp] theorem recordFault_pending (f : Fault) (s : State) : (recordFault f s).pending = s.pending := by cases f <;> rfl

@[simp] theorem recordFault_latLeft (f : Fault) (s : State) : (recordFault f s).latLeft = s.latLeft := by cases f <;> rfl

@[simp] theorem recordFault_draws (f : Fault) (s : State) : (recordFault f s).draws = s.draws := by cases f <;> rfl

@[simp] theorem recordFault_inputs (f : Fault) (s : State) : (recordFault f s).inputs = s.inputs := by cases f <;> rfl

@[simp] theorem recordFault_observed (f : Fault) (s : State) : (recordFault f s).observed = s.observed := by cases f <;> rfl

@[simp] theorem recordFault_unsupportedAccess (s : State) :
    (recordFault .unsupportedAccess s).faults = ⟨true, s.faults.writeWhileBusy⟩ := rfl

@[simp] theorem recordFault_writeWhileBusy (s : State) :
    (recordFault .writeWhileBusy s).faults = ⟨s.faults.unsupportedAccess, true⟩ := rfl

/-! ### tickLatency -/

@[simp] theorem tickLatency_busy (s : State) : (tickLatency s).busy = s.busy := by
  unfold tickLatency; split <;> rfl

@[simp] theorem tickLatency_errcode (s : State) : (tickLatency s).errcode = s.errcode := by
  unfold tickLatency; split <;> rfl

@[simp] theorem tickLatency_aesValid (s : State) : (tickLatency s).aesValid = s.aesValid := by
  unfold tickLatency; split <;> rfl

@[simp] theorem tickLatency_camValid (s : State) : (tickLatency s).camValid = s.camValid := by
  unfold tickLatency; split <;> rfl

@[simp] theorem tickLatency_keylen (s : State) : (tickLatency s).keylen = s.keylen := by
  unfold tickLatency; split <;> rfl

@[simp] theorem tickLatency_key (s : State) : (tickLatency s).key = s.key := by
  unfold tickLatency; split <;> rfl

@[simp] theorem tickLatency_din (s : State) : (tickLatency s).din = s.din := by
  unfold tickLatency; split <;> rfl

@[simp] theorem tickLatency_dout (s : State) : (tickLatency s).dout = s.dout := by
  unfold tickLatency; split <;> rfl

@[simp] theorem tickLatency_aesNr (s : State) : (tickLatency s).aesNr = s.aesNr := by
  unfold tickLatency; split <;> rfl

@[simp] theorem tickLatency_camNr (s : State) : (tickLatency s).camNr = s.camNr := by
  unfold tickLatency; split <;> rfl

@[simp] theorem tickLatency_aesRk (s : State) : (tickLatency s).aesRk = s.aesRk := by
  unfold tickLatency; split <;> rfl

@[simp] theorem tickLatency_camKm (s : State) : (tickLatency s).camKm = s.camKm := by
  unfold tickLatency; split <;> rfl

@[simp] theorem tickLatency_camSk (s : State) : (tickLatency s).camSk = s.camSk := by
  unfold tickLatency; split <;> rfl

@[simp] theorem tickLatency_pending (s : State) : (tickLatency s).pending = s.pending := by
  unfold tickLatency; split <;> rfl

@[simp] theorem tickLatency_faults (s : State) : (tickLatency s).faults = s.faults := by
  unfold tickLatency; split <;> rfl

theorem tickLatency_latLeft (s : State) :
    (tickLatency s).latLeft = if s.busy then s.latLeft - 1 else s.latLeft := by
  unfold tickLatency; split <;> rfl

@[simp] theorem tickLatency_draws (s : State) : (tickLatency s).draws = s.draws := by
  unfold tickLatency; split <;> rfl

@[simp] theorem tickLatency_inputs (s : State) : (tickLatency s).inputs = s.inputs := by
  unfold tickLatency; split <;> rfl

@[simp] theorem tickLatency_observed (s : State) : (tickLatency s).observed = s.observed := by
  unfold tickLatency; split <;> rfl

/-! ### withModelFields -/

@[simp] theorem withModelFields_busy (s : State) (lat n : Nat) (l : List HostOp) (o : List Word) :
    (s.withModelFields lat n l o).busy = s.busy := rfl

@[simp] theorem withModelFields_errcode (s : State) (lat n : Nat) (l : List HostOp) (o : List Word) :
    (s.withModelFields lat n l o).errcode = s.errcode := rfl

@[simp] theorem withModelFields_aesValid (s : State) (lat n : Nat) (l : List HostOp) (o : List Word) :
    (s.withModelFields lat n l o).aesValid = s.aesValid := rfl

@[simp] theorem withModelFields_camValid (s : State) (lat n : Nat) (l : List HostOp) (o : List Word) :
    (s.withModelFields lat n l o).camValid = s.camValid := rfl

@[simp] theorem withModelFields_keylen (s : State) (lat n : Nat) (l : List HostOp) (o : List Word) :
    (s.withModelFields lat n l o).keylen = s.keylen := rfl

@[simp] theorem withModelFields_key (s : State) (lat n : Nat) (l : List HostOp) (o : List Word) :
    (s.withModelFields lat n l o).key = s.key := rfl

@[simp] theorem withModelFields_din (s : State) (lat n : Nat) (l : List HostOp) (o : List Word) :
    (s.withModelFields lat n l o).din = s.din := rfl

@[simp] theorem withModelFields_dout (s : State) (lat n : Nat) (l : List HostOp) (o : List Word) :
    (s.withModelFields lat n l o).dout = s.dout := rfl

@[simp] theorem withModelFields_aesNr (s : State) (lat n : Nat) (l : List HostOp) (o : List Word) :
    (s.withModelFields lat n l o).aesNr = s.aesNr := rfl

@[simp] theorem withModelFields_camNr (s : State) (lat n : Nat) (l : List HostOp) (o : List Word) :
    (s.withModelFields lat n l o).camNr = s.camNr := rfl

@[simp] theorem withModelFields_aesRk (s : State) (lat n : Nat) (l : List HostOp) (o : List Word) :
    (s.withModelFields lat n l o).aesRk = s.aesRk := rfl

@[simp] theorem withModelFields_camKm (s : State) (lat n : Nat) (l : List HostOp) (o : List Word) :
    (s.withModelFields lat n l o).camKm = s.camKm := rfl

@[simp] theorem withModelFields_camSk (s : State) (lat n : Nat) (l : List HostOp) (o : List Word) :
    (s.withModelFields lat n l o).camSk = s.camSk := rfl

@[simp] theorem withModelFields_pending (s : State) (lat n : Nat) (l : List HostOp) (o : List Word) :
    (s.withModelFields lat n l o).pending = s.pending := rfl

@[simp] theorem withModelFields_faults (s : State) (lat n : Nat) (l : List HostOp) (o : List Word) :
    (s.withModelFields lat n l o).faults = s.faults := rfl

@[simp] theorem withModelFields_latLeft (s : State) (lat n : Nat) (l : List HostOp) (o : List Word) :
    (s.withModelFields lat n l o).latLeft = lat := rfl

@[simp] theorem withModelFields_draws (s : State) (lat n : Nat) (l : List HostOp) (o : List Word) :
    (s.withModelFields lat n l o).draws = n := rfl

@[simp] theorem withModelFields_inputs (s : State) (lat n : Nat) (l : List HostOp) (o : List Word) :
    (s.withModelFields lat n l o).inputs = l := rfl

@[simp] theorem withModelFields_observed (s : State) (lat n : Nat) (l : List HostOp) (o : List Word) :
    (s.withModelFields lat n l o).observed = o := rfl

/-- A tick of the latency changes a field of the model's own only. -/
theorem tickLatency_eq (s : State) :
    tickLatency s = s.withModelFields (tickLatency s).latLeft s.draws s.inputs s.observed := by
  unfold tickLatency; split <;> rfl

end Sys2Proof.Machine
end

