-- ==== Sys2Proof/Laws/Exec.lean ====
section
/-! SUPPORT. All that a command can do, whatever its outcome. -/

namespace Sys2Proof.Machine

/-- The key lengths AES refuses. -/
@[simp] theorem aesParams_eq_none (n : Word) : aesParams n = none ↔ ¬ SupportedLength n := by
  unfold aesParams
  repeat' split
  all_goals simp_all [SupportedLength]

/-- The key lengths AES accepts, and their parameters. -/
theorem aesParams_eq_some {n : Word} {p : Nat × Nat} : aesParams n = some p ↔
    (n = 16#32 ∧ p = (4, 10)) ∨ (n = 24#32 ∧ p = (6, 12)) ∨ (n = 32#32 ∧ p = (8, 14)) := by
  unfold aesParams
  repeat' split
  all_goals simp_all [eq_comm]

/-- The key lengths Camellia refuses. -/
@[simp] theorem camParams_eq_none (n : Word) : camParams n = none ↔ ¬ SupportedLength n := by
  unfold camParams
  repeat' split
  all_goals simp_all [SupportedLength]

/-- The key lengths Camellia accepts, and their parameters. -/
theorem camParams_eq_some {n : Word} {p : Nat × Nat} : camParams n = some p ↔
    (n = 16#32 ∧ p = (18, 52)) ∨ (n = 24#32 ∧ p = (24, 68)) ∨ (n = 32#32 ∧ p = (24, 68)) := by
  unfold camParams
  repeat' split
  all_goals simp_all [eq_comm]

/-- All a command does: it ends with an error, or it is an INIT that writes its own context, or an ENC or DEC that writes
DOUT. -/
theorem exec_cases (i : Instr) (s : State) :
    (∃ e, e ≠ .noError ∧ exec i s = .next (raiseError e s)) ∨
    (i = .aesInit ∧ SupportedLength s.keylen ∧ ∃ nk nr, aesParams s.keylen = some (nk, nr) ∧
      exec i s = .next (finish { s with
        aesRk := (aesContext s.key s.keylen.toNat nk nr).1,
        aesNr := (aesContext s.key s.keylen.toNat nk nr).2, aesValid := true })) ∨
    (i = .camInit ∧ SupportedLength s.keylen ∧ ∃ nr w, camParams s.keylen = some (nr, w) ∧
      exec i s = .next (finish { s with
        camKm := (camContext s.key s.keylen.toNat nr).1,
        camSk := (camContext s.key s.keylen.toNat nr).2.1,
        camNr := (camContext s.key s.keylen.toNat nr).2.2, camValid := true })) ∨
    ((i = .aesEnc ∨ i = .aesDec ∨ i = .camEnc ∨ i = .camDec) ∧
      ∃ d, exec i s = .next (finish { s with dout := d })) := by
  cases i with
  | aesInit =>
    cases hp : aesParams s.keylen with
    | none => exact .inl ⟨.invalidKeyLength, by decide, by simp [exec, execAesInit, hp]⟩
    | some p =>
      refine .inr (.inl ⟨rfl, ?_, p.1, p.2, rfl, by simp [exec, execAesInit, hp]⟩)
      rcases aesParams_eq_some.1 hp with h | h | h <;> simp [SupportedLength, h.1]
  | camInit =>
    cases hp : camParams s.keylen with
    | none => exact .inl ⟨.invalidKeyLength, by decide, by simp [exec, execCamInit, hp]⟩
    | some p =>
      refine .inr (.inr (.inl ⟨rfl, ?_, p.1, p.2, rfl, by simp [exec, execCamInit, hp]⟩))
      rcases camParams_eq_some.1 hp with h | h | h <;> simp [SupportedLength, h.1]
  | aesEnc =>
    cases hv : s.aesValid
    · exact .inl ⟨.notInitialized, by decide, by simp [exec, execAesEnc, hv]⟩
    · exact .inr (.inr (.inr ⟨by simp, _, by simp only [exec, execAesEnc, hv, if_true]; rfl⟩))
  | aesDec =>
    cases hv : s.aesValid
    · exact .inl ⟨.notInitialized, by decide, by simp [exec, execAesDec, hv]⟩
    · exact .inr (.inr (.inr ⟨by simp, _, by simp only [exec, execAesDec, hv, if_true]; rfl⟩))
  | camEnc =>
    cases hv : s.camValid
    · exact .inl ⟨.notInitialized, by decide, by simp [exec, execCamEnc, hv]⟩
    · exact .inr (.inr (.inr ⟨by simp, _, by simp only [exec, execCamEnc, hv, if_true]; rfl⟩))
  | camDec =>
    cases hv : s.camValid
    · exact .inl ⟨.notInitialized, by decide, by simp [exec, execCamDec, hv]⟩
    · exact .inr (.inr (.inr ⟨by simp, _, by simp only [exec, execCamDec, hv, if_true]; rfl⟩))

end Sys2Proof.Machine
end

