-- ==== Sys2Proof/Laws/Grid.lean ====
section
/-! SUPPORT. The AES grid entry by entry: what each transformation leaves at row r, column c, and that grids and blocks
are equal when their entries are. -/

namespace Sys2Proof.Machine

@[simp] theorem gridAt_gridOf (f : Fin 4 → Fin 4 → Byte) (r c : Fin 4) : gridAt (gridOf f) r c = f r c := by
  simp [gridAt, gridOf]

/-- Grids with equal entries are equal. -/
theorem grid_ext {s t : Grid} (h : ∀ r c, gridAt s r c = gridAt t r c) : s = t := by
  apply Vector.ext
  intro r hr
  apply Vector.ext
  intro c hc
  exact h ⟨r, hr⟩ ⟨c, hc⟩

@[simp] theorem gridAt_subBytes (s : Grid) (r c : Fin 4) :
    gridAt (subBytes s) r c = romAesSbox (gridAt s r c) := by simp [subBytes]

@[simp] theorem gridAt_shiftRows (s : Grid) (r c : Fin 4) :
    gridAt (shiftRows s) r c = gridAt s r (c + r) := by simp [shiftRows]

@[simp] theorem gridAt_addRoundKey (rk : Vector Word 60) (n : Nat) (s : Grid) (r c : Fin 4) :
    gridAt (addRoundKey rk n s) r c =
      gridAt s r c ^^^ wordByte (roundKeyWord rk (4 * n + c.val)) r.val := by simp [addRoundKey]

@[simp] theorem gridAt_invSubBytes (s : Grid) (r c : Fin 4) :
    gridAt (invSubBytes s) r c = romAesInvSbox (gridAt s r c) := by simp [invSubBytes]

@[simp] theorem gridAt_invShiftRows (s : Grid) (r c : Fin 4) :
    gridAt (invShiftRows s) r c = gridAt s r (c - r) := by simp [invShiftRows]

@[simp] theorem gridAt_toState (b : Block) (r c : Fin 4) :
    gridAt (toState b) r c = b[r.val + 4 * c.val]'(by omega) := by simp [toState]

@[simp] theorem getElem_fromState (s : Grid) (i : Nat) (h : i < 16) :
    (fromState s)[i] = gridAt s ⟨i % 4, by omega⟩ ⟨i / 4, by omega⟩ := by simp [fromState]

/-- Adding a round key twice changes nothing. -/
theorem addRoundKey_addRoundKey (rk : Vector Word 60) (n : Nat) (s : Grid) :
    addRoundKey rk n (addRoundKey rk n s) = s := by
  apply grid_ext
  intro r c
  simp

/-- `ToState` undoes `FromState`. -/
theorem toState_fromState (s : Grid) : toState (fromState s) = s := by
  apply grid_ext
  intro r c
  have h1 : (r.val + 4 * c.val) % 4 = r.val := by omega
  have h2 : (r.val + 4 * c.val) / 4 = c.val := by omega
  simp [h1, h2]

/-- `FromState` undoes `ToState`. -/
theorem fromState_toState (b : Block) : fromState (toState b) = b := by
  apply Vector.ext
  intro i hi
  have h : i % 4 + 4 * (i / 4) = i := by omega
  simp [h]

end Sys2Proof.Machine
end

