-- ==== Sys2Proof/Laws/Window.lean ====
section
/-! SUPPORT. The register window: when an offset falls into a group of registers, which fields a register's value depends
on, and all that one read and one write can do. -/

namespace Sys2Proof.Machine

/-! ### Offsets -/

/-- The offset is entry k of the group, and the register is that entry. -/
theorem regInGroup_eq_some {base n : Nat} {mk : Fin n → Reg} {off : Nat} {r : Reg} :
    regInGroup base n mk off = some r ↔ ∃ k : Fin n, base ≤ off ∧ (off - base) / 4 = k.val ∧ r = mk k := by
  unfold regInGroup
  constructor
  · intro h
    split at h
    · rename_i hc
      injection h with h
      exact ⟨⟨_, hc.2⟩, hc.1, rfl, h.symm⟩
    · cases h
  · rintro ⟨k, h1, h2, rfl⟩
    rw [dif_pos ⟨h1, by omega⟩]
    congr 2
    exact Fin.ext h2

/-- The offset is outside the group. -/
theorem regInGroup_eq_none {base n : Nat} {mk : Fin n → Reg} {off : Nat} :
    regInGroup base n mk off = none ↔ ¬ (base ≤ off ∧ (off - base) / 4 < n) := by
  unfold regInGroup
  split <;> simp_all

/-- An offset below or above the group is outside it. -/
theorem regInGroup_miss {base n : Nat} {mk : Fin n → Reg} {off : Nat} (h : off < base ∨ base + 4 * n ≤ off) :
    regInGroup base n mk off = none := regInGroup_eq_none.2 (by omega)

/-- The offset of entry k names entry k. -/
theorem regInGroup_hit {base n : Nat} {mk : Fin n → Reg} (k : Fin n) :
    regInGroup base n mk (base + 4 * k.val) = some (mk k) :=
  regInGroup_eq_some.2 ⟨k, by omega, by omega, rfl⟩

/-- The registers whose write is not ignored. -/
theorem hostWritable_iff (r : Reg) :
    r.hostWritable = true ↔ r = .cmd ∨ r = .keylen ∨ (∃ k, r = .key k) ∨ ∃ k, r = .din k := by
  cases r <;> simp [Reg.hostWritable]

/-! ### Values -/

/-- A register's value depends on the STATUS word and the register fields of State alone. -/
theorem regValue_of_fields {s t : State} (h0 : statusWord t = statusWord s) (h1 : t.keylen = s.keylen)
    (h2 : t.key = s.key) (h3 : t.din = s.din) (h4 : t.dout = s.dout) (h5 : t.aesNr = s.aesNr)
    (h6 : t.camNr = s.camNr) (h7 : t.aesRk = s.aesRk) (h8 : t.camKm = s.camKm) (h9 : t.camSk = s.camSk)
    (r : Reg) : regValue t r = regValue s r := by
  cases r <;> simp [regValue, *]

/-- States that agree in the fields of the block have the same registers. -/
theorem sameRegisters_of_fields {s t : State} (h : t.busy = s.busy ∧ t.errcode = s.errcode ∧
    t.aesValid = s.aesValid ∧ t.camValid = s.camValid ∧ t.pending = s.pending ∧ t.keylen = s.keylen ∧
    t.key = s.key ∧ t.din = s.din ∧ t.dout = s.dout ∧ t.aesNr = s.aesNr ∧ t.camNr = s.camNr ∧
    t.aesRk = s.aesRk ∧ t.camKm = s.camKm ∧ t.camSk = s.camSk) : SameRegisters s t := by
  refine ⟨fun r => ?_, by simp [h]⟩
  apply regValue_of_fields <;> simp [statusWord, h]

/-- The fields that are the model's own are behind no register. -/
theorem regValue_withModelFields (s : State) (lat n : Nat) (l : List HostOp) (o : List Word) (r : Reg) :
    regValue (s.withModelFields lat n l o) r = regValue s r :=
  regValue_of_fields rfl rfl rfl rfl rfl rfl rfl rfl rfl rfl r

/-! ### One access -/

/-- All a read does to the state: at most the count of draws moves, and only while BUSY = 1. -/
theorem readReg_snd (s : State) (off : Nat) :
    (readReg s off).2 = s ∨ (s.busy = true ∧ (readReg s off).2 = { s with draws := s.draws + 1 }) := by
  unfold readReg
  split
  · exact .inl rfl
  · split
    · exact .inr ⟨by simp_all, rfl⟩
    · exact .inl rfl

/-- A read changes no field but the count of draws. -/
theorem readReg_cases (s : State) (off : Nat) : ∃ n, (readReg s off).2 = { s with draws := n } := by
  rcases readReg_snd s off with h | ⟨-, h⟩
  · exact ⟨s.draws, by rw [h]⟩
  · exact ⟨_, h⟩

/-- All a write does: it is ignored, or the offset names CMD, KEYLEN, KEYk or DINk and the write records a fault or
stores its value as BUSY says. -/
theorem writeReg_cases (s : State) (off : Nat) (v : Word) :
    writeReg s off v = s ∨
    ∃ r, regAt off = some r ∧ r.hostWritable = true ∧
      ((s.busy = true ∧ writeReg s off v = recordFault .writeWhileBusy s) ∨
        (s.busy = false ∧ writeReg s off v = storeReg s r v)) := by
  unfold writeReg
  split
  · exact .inl rfl
  · rename_i r hr
    cases hw : r.hostWritable
    · refine .inl ?_
      simp only [Bool.and_false, Bool.false_eq_true, if_false]
      cases r <;> simp_all [Reg.hostWritable, storeReg]
    · refine .inr ⟨r, hr, hw, ?_⟩
      cases hb : s.busy <;> simp

end Sys2Proof.Machine
end

