-- ==== Sys2Proof/Laws/HostSteps.lean ====
section
/-! SUPPORT. All that one step of the outside can do. -/

namespace Sys2Proof.Machine

/-- With no input left, a step of the outside is a tick. -/
theorem hostStep_nil {s : State} (h : s.inputs = []) : hostStep s = tickLatency s := by
  simp [hostStep, h]

/-- With an input, a step of the outside is a tick and what the input does. -/
theorem hostStep_cons {s : State} {op : HostOp} {rest : List HostOp} (h : s.inputs = op :: rest) :
    hostStep s = performOp { tickLatency s with inputs := rest } op := by
  simp [hostStep, h]

/-- All a host read does: a fault, or one value more observed. -/
theorem hostRead_cases (s : State) (width off : Nat) :
    (accessWellFormed width off = false ∧ hostRead s width off = recordFault .unsupportedAccess s) ∨
    (accessWellFormed width off = true ∧
      ∃ n v, hostRead s width off = { s with draws := n, observed := s.observed ++ [v] }) := by
  unfold hostRead
  obtain ⟨n, hn⟩ := readReg_cases s off
  split
  · exact .inr ⟨‹_›, n, _, by simp only [hn]; rfl⟩
  · rename_i h
    exact .inl ⟨by simpa using h, rfl⟩

/-- All a turn of `wait` does: one value more observed, and `wait` is over or still to do. -/
theorem hostWait_cases (s : State) :
    ∃ n v l, hostWait s = { s with draws := n, observed := s.observed ++ [v], inputs := l } ∧
      (l = s.inputs ∨ l = .wait :: s.inputs) := by
  obtain ⟨n, hn⟩ := readReg_cases s Reg.status.offset
  unfold hostWait
  simp only [hn]
  split
  · exact ⟨n, _, _, rfl, .inr rfl⟩
  · exact ⟨n, _, _, rfl, .inl rfl⟩

/-- Reset comes next exactly when it heads the inputs. -/
theorem resetNext_iff (s : State) : resetNext s = true ↔ ∃ rest, s.inputs = .reset :: rest := by
  unfold resetNext
  cases h : s.inputs with
  | nil => simp
  | cons a l => simp

/-- All a step of the outside does, where it is no reset: it changes fields of the model's own; or an unsupported access
records its fault; or a write to CMD, KEYLEN, KEYk or DINk records its fault or stores its value as BUSY says. -/
theorem hostStep_cases {s : State} (hr : resetNext s = false) :
    ∃ lat n l o, (hostStep s = s.withModelFields lat n l o ∨
      (hostStep s = recordFault .unsupportedAccess (s.withModelFields lat n l o) ∧
        ∃ width off, (∃ rest, s.inputs = .read width off :: rest ∨ ∃ v, s.inputs = .write width off v :: rest) ∧
          accessWellFormed width off = false) ∨
      ∃ off v rest r, s.inputs = .write 32 off v :: rest ∧ regAt off = some r ∧ r.hostWritable = true ∧
        ((s.busy = true ∧ hostStep s = recordFault .writeWhileBusy (s.withModelFields lat n l o)) ∨
          (s.busy = false ∧ hostStep s = storeReg (s.withModelFields lat n l o) r v))) := by
  cases hi : s.inputs with
  | nil =>
    rw [hostStep_nil hi]
    exact ⟨_, _, _, _, .inl (tickLatency_eq s)⟩
  | cons op rest =>
    rw [hostStep_cons hi, tickLatency_eq]
    generalize (tickLatency s).latLeft = lat
    change ∃ lat' n l o, performOp (s.withModelFields lat s.draws rest s.observed) op = _ ∨ _
    cases op with
    | read width off =>
      rcases hostRead_cases (s.withModelFields lat s.draws rest s.observed) width off with ⟨h1, h2⟩ | ⟨-, n, v, h2⟩
      · exact ⟨_, _, _, _, .inr (.inl ⟨h2, _, _, ⟨_, .inl rfl⟩, h1⟩)⟩
      · exact ⟨lat, n, rest, s.observed ++ [v], .inl h2⟩
    | write width off v =>
      refine ⟨lat, s.draws, rest, s.observed, ?_⟩
      simp only [performOp, hostWrite]
      split
      · rename_i hw
        obtain rfl : width = 32 := by simp [accessWellFormed] at hw; exact hw.1.1
        rcases writeReg_cases (s.withModelFields lat s.draws rest s.observed) off v with h | ⟨r, h1, h2, h3⟩
        · exact .inl h
        · exact .inr (.inr ⟨off, v, rest, r, rfl, h1, h2, h3⟩)
      · rename_i hw
        exact .inr (.inl ⟨rfl, _, _, ⟨_, .inr ⟨_, rfl⟩⟩, by simpa using hw⟩)
    | wait =>
      obtain ⟨n, v, l, h1, -⟩ := hostWait_cases (s.withModelFields lat s.draws rest s.observed)
      exact ⟨lat, n, l, s.observed ++ [v], .inl h1⟩
    | idle => exact ⟨_, _, _, _, .inl rfl⟩
    | reset => simp [resetNext, hi] at hr

end Sys2Proof.Machine
end

