-- ==== Sys2Proof/Laws/KeyExpansion.lean ====
section
/-! SUPPORT. The key expansion of R163, word by word. -/

namespace Sys2Proof.Machine

/-- The expansion appends as many words as it is told to. -/
theorem length_expandWords (nk n : Nat) (w : List Word) : (expandWords nk n w).length = w.length + n := by
  induction n generalizing w with
  | zero => rfl
  | succ n ih =>
    simp [expandWords, ih]
    omega

/-- The expansion leaves the words it starts from. -/
theorem getElem?_expandWords_old (nk n : Nat) (w : List Word) (i : Nat) (h : i < w.length) :
    (expandWords nk n w)[i]? = w[i]? := by
  induction n generalizing w with
  | zero => rfl
  | succ n ih =>
    simp only [expandWords]
    rw [ih _ (by simp; omega), List.getElem?_append_left h]

/-- Every word the expansion appends follows the recurrence of R163. -/
theorem getD_expandWords_new (nk n : Nat) (w : List Word) (i : Nat) (h : w.length ≤ i) (h2 : i < w.length + n)
    (hk : 0 < nk) (hw : nk ≤ w.length) :
    (expandWords nk n w).getD i 0#32 =
      (expandWords nk n w).getD (i - nk) 0#32 ^^^ expansionTemp nk i ((expandWords nk n w).getD (i - 1) 0#32) := by
  induction n generalizing w with
  | zero => omega
  | succ n ih =>
    simp only [expandWords]
    by_cases he : i = w.length
    · subst he
      have old := fun j (hj : j < w.length + 1) => getElem?_expandWords_old nk n
        (w ++ [w.getD (w.length - nk) 0#32 ^^^ expansionTemp nk w.length (w.getD (w.length - 1) 0#32)]) j
        (by simpa using hj)
      simp only [List.getD_eq_getElem?_getD] at old ⊢
      rw [old _ (by omega), old _ (by omega), old _ (by omega)]
      rw [List.getElem?_append_right (by omega),
        List.getElem?_append_left (show w.length - nk < w.length by omega),
        List.getElem?_append_left (show w.length - 1 < w.length by omega)]
      simp
    · exact ih _ (by simp; omega) (by simp; omega) (by simp; omega)

/-- Word i of the placed schedule. -/
theorem roundKeyWord_placeSchedule (w : List Word) (i : Nat) (h : i < 60) :
    roundKeyWord (placeSchedule w) i = w.getD i 0#32 := by
  simp [roundKeyWord, placeSchedule, List.getD_eq_getElem?_getD, h]

end Sys2Proof.Machine
end

