-- ==== Sys2Proof/Laws/PerInstr.lean ====
section
/-! SUPPORT. Statements made of every command, one lemma per constructor. -/

namespace Sys2Proof.Laws.LegalWord

open Sys2Proof

/-- The command's word is one of the six legal ones of R106: no reserved bit is set and its OP is not 0b00. -/
def Statement (i : Instr) : Prop :=
  wordWellFormed (encode i) = true ∧ (encode i).toNat ≤ 7 ∧ (encode i).toNat % 4 ≠ 0

theorem aesInit : Statement .aesInit := by unfold Statement; decide

theorem aesEnc : Statement .aesEnc := by unfold Statement; decide

theorem aesDec : Statement .aesDec := by unfold Statement; decide

theorem camInit : Statement .camInit := by unfold Statement; decide

theorem camEnc : Statement .camEnc := by unfold Statement; decide

theorem camDec : Statement .camDec := by unfold Statement; decide

end Sys2Proof.Laws.LegalWord
end

