-- ==== Sys2Proof/Laws/Step.lean ====
section
/-! SUPPORT. All that one step can do. -/

namespace Sys2Proof.Machine

/-- A completion step executes the command PENDING decodes to, or ends with ILLEGAL_COMMAND. -/
theorem completionStep_cases (s : State) :
    (∃ i, decode s.pending = .ok i ∧ completionStep s = exec i s) ∨
    ((∃ e, decode s.pending = .error e) ∧ completionStep s = .next (raiseError .illegalCommand s)) := by
  unfold completionStep
  cases h : decode s.pending with
  | ok i => exact .inl ⟨i, rfl, rfl⟩
  | error e => exact .inr ⟨⟨e, rfl⟩, rfl⟩

/-- A step that does not stop is a reset, a completion or another step of the outside. -/
theorem step_cases {s t : State} (h : step s = .next t) :
    (∃ rest, s.inputs = .reset :: rest ∧ t = resetBlock { tickLatency s with inputs := rest }) ∨
    (resetNext s = false ∧ engineNext s = true ∧ completionStep s = .next t) ∨
    (resetNext s = false ∧ s.FaultFree ∧ engineReady s = false ∧ t = hostStep s) := by
  unfold step at h
  split at h
  · rename_i hr
    obtain ⟨rest, hi⟩ := (resetNext_iff s).1 hr
    refine .inl ⟨rest, hi, ?_⟩
    rw [hostStep_cons hi] at h
    injection h with h; exact h.symm
  · rename_i hr
    split at h
    · cases h
    · rename_i hf
      split at h
      · exact .inr (.inl ⟨by simpa using hr, by simp_all [engineNext], h⟩)
      · injection h with h
        exact .inr (.inr ⟨by simpa using hr, hf, by simp_all, h.symm⟩)

/-- Where the outside moves next, the step is a tick and what the input does. -/
theorem step_of_hostTurn {s : State} {op : HostOp} {rest : List HostOp} (h : HostTurn s op rest) :
    step s = .next (performOp { tickLatency s with inputs := rest } op) := by
  obtain ⟨h1, h2, h3⟩ := h
  simp only [step, h2, h3, hostStep_cons h1]
  simp

end Sys2Proof.Machine
end

