-- ==== Sys2Proof/Tests/Slice0.lean ====
section
/-! SUPPORT. The model's own tests. Every expected value is the spec's own: a worked example of a rule, or a row of
95_test_vectors.md. The witnesses, each named after an obligation, show that its hypotheses can be met. -/

namespace Sys2Proof.Tests

open Sys2Proof Sys2Proof.Machine

/-! ### Well-formedness: one ill-formed term for each check -/

theorem test_wf_reserved_bit_refused : reservedClear 0x00000008#32 = false ∧ wordWellFormed 0x80000001#32 = false := by
  decide

theorem test_wf_op_zero_refused : opLegal 0x00000004#32 = false ∧ wordWellFormed 0x00000000#32 = false := by decide

theorem test_wf_width_refused : accessWellFormed 8 0x008 = false ∧ accessWellFormed 64 0x008 = false := by decide

theorem test_wf_misaligned_refused : accessWellFormed 32 0x00A = false := by decide

theorem test_wf_outside_refused : accessWellFormed 32 0x3000 = false := by decide

theorem test_wf_host_op_refused :
    (HostOp.read 16 0x004).WellFormed = false ∧ (HostOp.write 32 0x3000 0#32).WellFormed = false := by decide

theorem test_wf_transaction_reserved_refused :
    transactionReservedClear 0x8000400800000010#64 = false ∧ transactionWellFormed 0x8000400800000010#64 = false := by
  decide

theorem test_wf_transaction_read_data_refused :
    transactionDataClear 0x0000000400000001#64 = false ∧ transactionWellFormed 0x0000000400000001#64 = false := by
  decide

theorem test_wf_key_length_refused :
    keyStringWellFormed [] = false ∧ keyStringWellFormed (List.replicate 33 0#8) = false := by decide

/-! ### Decoding: every command's word, written out from R100 as RSVD, ALG, OP -/

theorem test_decode_aes_init : decode (0b00000000000000000000000000000#29 ++ 0b0#1 ++ 0b01#2) = .ok .aesInit := by decide

theorem test_decode_aes_enc : decode (0b00000000000000000000000000000#29 ++ 0b0#1 ++ 0b10#2) = .ok .aesEnc := by decide

theorem test_decode_aes_dec : decode (0b00000000000000000000000000000#29 ++ 0b0#1 ++ 0b11#2) = .ok .aesDec := by decide

theorem test_decode_cam_init : decode (0b00000000000000000000000000000#29 ++ 0b1#1 ++ 0b01#2) = .ok .camInit := by decide

theorem test_decode_cam_enc : decode (0b00000000000000000000000000000#29 ++ 0b1#1 ++ 0b10#2) = .ok .camEnc := by decide

theorem test_decode_cam_dec : decode (0b00000000000000000000000000000#29 ++ 0b1#1 ++ 0b11#2) = .ok .camDec := by decide

/-- 95_test_vectors.md 2.8: the words that decode to ILLEGAL. -/
theorem test_decode_illegal :
    decode 0x00000000#32 = .error .illegalOp ∧ decode 0x00000004#32 = .error .illegalOp ∧
      decode 0x00000008#32 = .error .reservedBits ∧ decode 0x80000001#32 = .error .reservedBits := by decide

/-- R109 and R110: `wr KEYLEN, 0x10`, `rd STATUS` and `cmd aes.enc` as 64-bit words. -/
theorem test_decode_transactions :
    (decodeTransaction 0x8000000800000010#64).toOption.map Transaction.op = some (wr .keylen 0x10#32) ∧
      (decodeTransaction 0x0000000400000000#64).toOption.map Transaction.op = some (rd .status) ∧
      (decodeTransaction 0x8000000000000002#64).toOption.map (fun t => [t.op]) = some (cmdOps .aesEnc) := by decide

/-! ### Helpers -/

/-- The state after a step that does not stop, and reset after one that does. -/
def after (o : Host.Outcome State Fault Refusal) : State :=
  match o with
  | .next t => t
  | _ => State.reset

/-- Reset, with a key of n bytes in KEY0.. and KEYLEN. -/
def withKey (n : Word) (key : Vector Word 8) : State := { State.reset with keylen := n, key := key }

/-- The next step from `s` with the command word `w` placed. -/
def placed (s : State) (w : Nat) : Host.Outcome State Fault Refusal := step (s.withFetchWord 32 w)

/-- The FIPS-197 C.1 and C.3 keys and plaintext. -/
def fipsKey : Vector Word 8 :=
  #v[0x00010203#32, 0x04050607#32, 0x08090a0b#32, 0x0c0d0e0f#32, 0x10111213#32, 0x14151617#32, 0x18191a1b#32,
    0x1c1d1e1f#32]

/-- The FIPS-197 C.1, C.2 and C.3 plaintext. -/
def fipsBlock : Vector Word 4 := #v[0x00112233#32, 0x44556677#32, 0x8899aabb#32, 0xccddeeff#32]

/-- The FIPS-197 A.1 key, with ones where a 16-byte key is not read. -/
def a1Key : Vector Word 8 :=
  #v[0x2b7e1516#32, 0x28aed2a6#32, 0xabf71588#32, 0x09cf4f3c#32, 0xffffffff#32, 0xffffffff#32, 0xffffffff#32,
    0xffffffff#32]

/-- The RFC 3713 key of 32 bytes, whose first 16 and 24 bytes are the shorter keys. -/
def rfcKey : Vector Word 8 :=
  #v[0x01234567#32, 0x89abcdef#32, 0xfedcba98#32, 0x76543210#32, 0x00112233#32, 0x44556677#32, 0x8899aabb#32,
    0xccddeeff#32]

/-- The RFC 3713 plaintext. -/
def rfcBlock : Vector Word 4 := #v[0x01234567#32, 0x89abcdef#32, 0xfedcba98#32, 0x76543210#32]

/-- Reset, with the AES context of a key and a block in DIN. -/
def aesReady (n : Word) (din : Vector Word 4) : State := { after (exec .aesInit (withKey n fipsKey)) with din := din }

/-- Reset, with the Camellia context of a key and a block in DIN. -/
def camReady (n : Word) (din : Vector Word 4) : State := { after (exec .camInit (withKey n rfcKey)) with din := din }

/-- Reset, with what the outside does next. -/
def hostNext (l : List HostOp) : State := { State.reset with inputs := l }

/-- Reset, with a command latched, `lat` steps of its latency left, and what the outside does next. -/
def running (w : Word) (lat : Nat) (l : List HostOp) : State :=
  { State.reset with pending := w, busy := true, latLeft := lat, inputs := l }

/-! ### Commands -/

/-- 95_test_vectors.md 2.3: the A.1 schedule, its zero tail and STATUS; KEY4 to KEY7 are not read. -/
theorem test_aes_init_a1 :
    let t := after (placed (withKey 16#32 a1Key) 1)
    t.aesRk[4] = 0xa0fafe17#32 ∧ t.aesRk[43] = 0xb6630ca6#32 ∧ t.aesRk[44] = 0#32 ∧ t.aesNr = 10#32 ∧
      regValue t .status = 0x00000100#32 := by decide +kernel

/-- 95_test_vectors.md 2.3: KEYLEN = 0x110 is compared as a whole and fails. -/
theorem test_aes_init_length :
    let t := after (placed (withKey 0x110#32 a1Key) 1)
    regValue t .status = 0x00000012#32 ∧ t.aesNr = 0#32 := by decide +kernel

/-- FIPS-197 C.3 (95_test_vectors.md 2.4). -/
theorem test_aes_enc_256 :
    (after (placed (aesReady 32#32 fipsBlock) 2)).dout =
      #v[0x8ea2b7ca#32, 0x516745bf#32, 0xeafc4990#32, 0x4b496089#32] := by decide +kernel

/-- 95_test_vectors.md 2.4: aes.enc after reset. -/
theorem test_aes_enc_not_initialized :
    regValue (after (placed State.reset 2)) .status = 0x00000022#32 := by decide +kernel

/-- FIPS-197 C.2 (95_test_vectors.md 2.5). -/
theorem test_aes_dec_192 :
    (after (placed (aesReady 24#32 #v[0xdda97ca4#32, 0x864cdfe0#32, 0x6eaf70a0#32, 0xec0d7191#32]) 3)).dout =
      fipsBlock := by decide +kernel

/-- 95_test_vectors.md 2.7: a valid Camellia context does not make aes.dec legal. -/
theorem test_aes_dec_other_context :
    regValue (after (placed (camReady 16#32 rfcBlock) 3)) .status = 0x00000222#32 := by decide +kernel

/-- 95_test_vectors.md 2.6: the 192-bit RFC key's KR, KA and KB, and its subkeys 0 and 67. -/
theorem test_cam_init_192 :
    let t := after (placed (withKey 24#32 rfcKey) 5)
    t.camKm[6] = 0xffeeddcc#32 ∧ t.camKm[8] = 0x0766a213#32 ∧ t.camKm[15] = 0xe38b4df2#32 ∧
      t.camSk[4] = 0x8f3afac1#32 ∧ t.camSk[67] = 0x505bf1c5#32 ∧ t.camNr = 24#32 := by decide +kernel

/-- 95_test_vectors.md 2.6: the 128-bit RFC key's KB, its last subkey and the zero after it. -/
theorem test_cam_init_128 :
    let t := after (placed (withKey 16#32 rfcKey) 5)
    t.camKm[12] = 0x6408e232#32 ∧ t.camSk[51] = 0x2053cafc#32 ∧ t.camSk[52] = 0#32 ∧
      regValue t .status = 0x00000200#32 := by decide +kernel

/-- The RFC 3713 128-bit vector (95_test_vectors.md 2.7). -/
theorem test_cam_enc_128 :
    (after (placed (camReady 16#32 rfcBlock) 6)).dout =
      #v[0x67673138#32, 0x54966973#32, 0x08570656#32, 0x48eabe43#32] := by decide +kernel

/-- The RFC 3713 256-bit vector (95_test_vectors.md 2.7). -/
theorem test_cam_enc_256 :
    (after (placed (camReady 32#32 rfcBlock) 6)).dout =
      #v[0x9acc237d#32, 0xff16d76c#32, 0x20ef7c91#32, 0x9e3a7509#32] := by decide +kernel

/-- The RFC 3713 192-bit vector (95_test_vectors.md 2.7). -/
theorem test_cam_dec_192 :
    (after (placed (camReady 24#32 #v[0xb4993401#32, 0xb3e996f8#32, 0x4ee5cee7#32, 0xd79b09b9#32]) 7)).dout =
      rfcBlock := by decide +kernel

/-- 95_test_vectors.md 2.7: cam.dec after a successful aes.init. -/
theorem test_cam_dec_other_context :
    regValue (after (placed (aesReady 16#32 fipsBlock) 7)) .status = 0x00000122#32 := by decide +kernel

/-- 95_test_vectors.md 2.8: an illegal word. -/
theorem test_illegal_word : regValue (after (placed State.reset 4)) .status = 0x00000032#32 := by decide +kernel

/-! ### The engines' functions -/

/-- R160, R161, R162: their examples. -/
theorem test_key_schedule_words :
    subWord 0xcf4f3c09#32 = 0x8a84eb01#32 ∧ rotWord 0x09cf4f3c#32 = 0xcf4f3c09#32 ∧
      rconWord 9 = 0x1B000000#32 := by decide +kernel

/-- R182, R201: their examples. -/
theorem test_shift_rows :
    fromState (shiftRows (toState #v[0, 1, 2, 3, 4, 5, 6, 7, 8, 9, 10, 11, 12, 13, 14, 15])) =
      #v[0x00, 0x05, 0x0a, 0x0f, 0x04, 0x09, 0x0e, 0x03, 0x08, 0x0d, 0x02, 0x07, 0x0c, 0x01, 0x06, 0x0b] ∧
    fromState (invShiftRows (toState #v[0, 1, 2, 3, 4, 5, 6, 7, 8, 9, 10, 11, 12, 13, 14, 15])) =
      #v[0x00, 0x0d, 0x0a, 0x07, 0x04, 0x01, 0x0e, 0x0b, 0x08, 0x05, 0x02, 0x0f, 0x0c, 0x09, 0x06, 0x03] := by
  decide +kernel

/-- R183, R202: two of their columns each. -/
theorem test_mix_columns :
    fromState (mixColumns (toState (blockOfWords #v[0xdb135345#32, 0xf20a225c#32, 0x01010101#32, 0xd4d4d4d5#32]))) =
      blockOfWords #v[0x8e4da1bc#32, 0x9fdc589d#32, 0x01010101#32, 0xd5d5d7d6#32] ∧
    fromState (invMixColumns (toState (blockOfWords #v[0x8e4da1bc#32, 0x9fdc589d#32, 0xd5d5d7d6#32, 0x4d7ebdf8#32]))) =
      blockOfWords #v[0xdb135345#32, 0xf20a225c#32, 0xd4d4d4d5#32, 0x2d26314c#32] := by decide +kernel

/-- R251 to R256: their examples (95_test_vectors.md 2.7). -/
theorem test_camellia_functions :
    camS 0x01020304#32 0x05060708#32 = (0x825876e4#32, 0x4e60aee4#32) ∧
      camP 0x00000000#32 0x00000001#32 = (0x01010100#32, 0x01010100#32) ∧
      camF 0x01234567#32 0x89abcdef#32 0xa09e667f#32 0x3bcc908b#32 = (0x828787cc#32, 0x9eba002a#32) ∧
      camFL 0x80000000#32 0x00000000#32 0x80000000#32 0x0000ffff#32 = (0x8000ffff#32, 0x00000001#32) ∧
      camFLInv 0x8ace0246#32 0x8bed4721#32 0xffffffff#32 0x00000000#32 = (0x01234567#32, 0x89abcdef#32) := by
  decide +kernel

/-- 95_test_vectors.md 2.1: entries of every table. -/
theorem test_tables :
    romAesSbox 0x53 = 0xed ∧ romAesInvSbox 0xff = 0x7d ∧ romGfMul2 0xae = 0x47 ∧ romCamSbox1 0xff = 0x9e ∧
      romCamSbox2 0x80 = 0x55 ∧ romCamSbox3 0x01 = 0x41 ∧ romCamSbox4 0x01 = 0x2c ∧ romAesRcon 10 = 0x36 ∧
      romCamSigma 10 = 0xb05688c2 ∧ romCamSigma 11 = 0xb3e6c1fd := by decide +kernel

/-! ### Host accesses -/

/-- R33, R74: STATUS after reset, and an unmapped offset. -/
theorem test_host_reads :
    (after (step (hostNext [rd .status]))).observed = [0#32] ∧
      (after (step (hostNext [rd .blocksize]))).observed = [0x10#32] ∧
      (after (step (hostNext [.read 32 0x0058]))).observed = [0#32] := by decide +kernel

/-- R44: a host read of AES_SBOX[0x53] and of CAM_SIGMA[11]. -/
theorem test_host_rom_reads :
    (after (step (hostNext [.read 32 (0x1000 + 4 * 0x53)]))).observed = [0xed#32] ∧
      (after (step (hostNext [.read 32 0x2C6C]))).observed = [0xb3e6c1fd#32] := by decide +kernel

/-- R32, R34: a write to KEYLEN, and one to CMD. -/
theorem test_host_writes :
    (after (step (hostNext [wr .keylen 0x10#32]))).keylen = 0x10#32 ∧
      (after (step (hostNext [wr .cmd 0x2#32]))).pending = 0x2#32 ∧
      (after (step (hostNext [wr .cmd 0x2#32]))).busy = true := by decide +kernel

/-- R73, R341: the two model faults, each recorded once; R308: the faulted state stops. -/
theorem test_model_faults :
    (after (step (hostNext [.read 16 0x004]))).faults = ⟨true, false⟩ ∧
      (after (step (running 1#32 3 [wr .keylen 0x10#32]))).faults = ⟨false, true⟩ ∧
      step { State.reset with faults := ⟨false, true⟩ } = .fault .writeWhileBusy :=
  ⟨by decide +kernel, by decide +kernel, rfl⟩

/-- R333: reset goes before a completion and discards the command. -/
theorem test_reset_discards_command :
    (after (step (running 1#32 1 [.reset]))).busy = false ∧
      (after (step (running 1#32 1 [.reset]))).errcode = .noError := by decide +kernel

/-! ### Witnesses: states and operands that meet the hypotheses of an obligation together -/

/-- A next state exists. -/
def stepsTo (s : State) : Prop := ∃ t, step s = .next t

theorem witness_ResetStepGivesResetValues :
    resetNext (hostNext [.reset]) = true ∧ resetNext (running 1#32 1 [.reset]) = true ∧
      resetNext { hostNext [.reset] with faults := ⟨true, true⟩ } = true := by decide

theorem witness_RegisterMapIsOneToOne :
    regAt 0x0000 = some .cmd ∧ regAt 0x002C = some (.key 7) ∧ regAt 0x003C = some (.din 3) ∧
      regAt 0x004C = some (.dout 3) ∧ regAt 0x01EC = some (.aesRk 59) ∧ regAt 0x023C = some (.camKm 15) ∧
      regAt 0x040C = some (.camSk 67) ∧ regAt 0x2C6C = some (.camSigma 11) ∧ State.reset.busy = false := by decide

theorem witness_UnmappedOffsetsAreTheListedRanges :
    regAt 0x0058 = none ∧ regAt 0x00FC = none ∧ regAt 0x01F0 = none ∧ regAt 0x0240 = none ∧ regAt 0x0FFC = none ∧
      regAt 0x2C2C = none ∧ regAt 0x2C3C = none ∧ regAt 0x2C70 = none ∧ regAt 0x2FFC = none ∧
      (regAt 0x0054).isSome = true ∧ (regAt 0x0100).isSome = true ∧ (regAt 0x2C40).isSome = true := by decide

theorem witness_UnmappedAndReadOnlyOffsetsIgnoreWrites_read :
    HostTurn (hostNext [.read 32 0x2FFC]) (.read 32 0x2FFC) [] ∧ regAt 0x2FFC = none ∧
      HostTurn (running 1#32 2 [.read 32 0x0000]) (.read 32 0x0000) [] ∧ regAt 0x0000 = some .cmd := by decide

theorem witness_UnmappedAndReadOnlyOffsetsIgnoreWrites_write :
    HostTurn (running 1#32 2 [.write 32 0x0058 7#32]) (.write 32 0x0058 7#32) [] ∧ regAt 0x0058 = none ∧
      HostTurn (hostNext [.write 32 0x0004 7#32]) (.write 32 0x0004 7#32) [] ∧ regAt 0x0004 = some .status := by decide

theorem witness_ConfigurationWritesStoreTheirValue :
    HostTurn (hostNext [wr .keylen 16#32]) (.write 32 Reg.keylen.offset 16#32) [] ∧
      HostTurn (hostNext [wr (.key 7) 1#32]) (.write 32 (Reg.key 7).offset 1#32) [] ∧
      HostTurn (hostNext [wr (.din 3) 1#32]) (.write 32 (Reg.din 3).offset 1#32) [] ∧
      (hostNext [wr (.din 3) 1#32]).busy = false := by decide

theorem witness_CommandWriteLatchesTheWord :
    HostTurn (hostNext [wr .cmd 0xFFFFFFFF#32]) (.write 32 0x000 0xFFFFFFFF#32) [] ∧
      (hostNext [wr .cmd 0xFFFFFFFF#32]).busy = false := by decide

theorem witness_WriteWhileBusyRecordsItsFault :
    HostTurn (running 1#32 2 [.write 32 0x000 1#32]) (.write 32 0x000 1#32) [] ∧ regAt 0x000 = some .cmd ∧
      HostTurn (running 1#32 2 [.write 32 0x02C 1#32]) (.write 32 0x02C 1#32) [] ∧ regAt 0x02C = some (.key 7) ∧
      HostTurn (running 1#32 2 [.write 32 0x2FFC 1#32]) (.write 32 0x2FFC 1#32) [] ∧ regAt 0x2FFC = none ∧
      HostTurn (running 1#32 2 [.write 32 0x004 1#32]) (.write 32 0x004 1#32) [] ∧ regAt 0x004 = some .status ∧
      HostTurn (running 1#32 2 [.write 32 0x03C 1#32]) (.write 32 0x03C 1#32) [] ∧ regAt 0x03C = some (.din 3) ∧
      HostTurn (running 1#32 2 [.write 32 0x040 1#32]) (.write 32 0x040 1#32) [] ∧ regAt 0x040 = some (.dout 0) ∧
      (running 1#32 2 [.write 32 0x000 1#32]).busy = true := by decide

theorem witness_UnsupportedAccessRecordsItsFault :
    HostTurn (hostNext [.read 16 0x004]) (.read 16 0x004) [] ∧
      HostTurn (hostNext [.write 32 0x00A 0#32]) (.write 32 0x00A 0#32) [] ∧
      HostTurn (running 1#32 2 [.write 32 0x3000 0#32]) (.write 32 0x3000 0#32) [] ∧
      HostTurn (running 1#32 2 [.write 16 0x008 0#32]) (.write 16 0x008 0#32) [] := by decide

theorem witness_ReadsReturnTheRegisterAndChangeNothing :
    HostTurn (hostNext [rd (.camSk 67)]) (.read 32 (Reg.camSk 67).offset) [] ∧
      (hostNext [rd (.camSk 67)]).busy = false := by decide

theorem witness_ReadsWhileBusyAreDraws :
    HostTurn (running 1#32 2 [rd .status]) (.read 32 Reg.status.offset) [] ∧
      HostTurn (running 1#32 2 [rd (.aesRk 59)]) (.read 32 (Reg.aesRk 59).offset) [] ∧
      HostTurn (running 1#32 2 [rd .keylen]) (.read 32 Reg.keylen.offset) [] ∧
      HostTurn (running 1#32 2 [rd (.camSigma 11)]) (.read 32 (Reg.camSigma 11).offset) [] ∧
      HostTurn (running 1#32 2 [.read 32 0x2FFC]) (.read 32 0x2FFC) [] ∧ regAt 0x2FFC = none ∧
      (running 1#32 2 [rd .status]).busy = true := by decide

theorem witness_AesSboxIsTheAffineImageOfTheInverse : (0x01#8 : Byte) ≠ 0x00#8 := by decide

theorem witness_SubkeyTablesCoverEveryWordOnce :
    (⟨50, .ka, 111, .low⟩ : SubkeyEntry) ∈ romCamKs1 ∧ (⟨66, .kb, 111, .low⟩ : SubkeyEntry) ∈ romCamKs2 := by decide

theorem witness_DecodeFollowsTheFields :
    (0x00000007#32 : Word).toNat ≤ 7 ∧ (0x00000007#32 : Word).toNat % 4 ≠ 0 := by decide

theorem witness_DecodeAndEncodeAgree : Instr.camDec.WellFormed ∧ decode 0x00000007#32 = .ok .camDec :=
  ⟨trivial, by decide⟩

theorem witness_StepExecutesTheDecodedCommand :
    engineNext (running 5#32 1 []) = true ∧ decode (running 5#32 1 []).pending = .ok .camInit ∧
      Instr.camInit.WellFormed := ⟨by decide, by decide, trivial⟩

theorem witness_PlacedWordRunsNext : decodeTableWord 32 1 = some .aesInit ∧ decodeTableWord 32 7 = some .camDec := by
  decide

theorem witness_IllegalWordCompletesWithIllegalCommand :
    engineNext (running 0#32 1 []) = true ∧ (running 0#32 1 []).pending.toNat % 4 = 0 ∧
      engineNext (running 9#32 1 []) = true ∧ 7 < (running 9#32 1 []).pending.toNat := by decide

theorem witness_CompletionReportsTheFirstFailedCheck :
    engineNext (running 2#32 0 [.wait]) = true ∧ (running 2#32 1 [.reset, .idle]).inputs = [.reset, .idle] ∧
      engineReady (running 2#32 1 [.reset, .idle]) = true ∧ (running 2#32 1 [.reset, .idle]).FaultFree := by decide

theorem witness_ErrorsChangeOnlyErrcodeAndBusy :
    engineNext (running 1#32 1 []) = true ∧ completionCode (running 1#32 1 []) = .invalidKeyLength ∧
      completionCode (running 6#32 1 []) = .notInitialized ∧ completionCode (running 4#32 1 []) = .illegalCommand := by
  decide

theorem witness_StepStopsExactlyOnARecordedFault :
    step { State.reset with faults := ⟨true, false⟩ } = .fault .unsupportedAccess ∧ stepsTo State.reset :=
  ⟨rfl, _, rfl⟩

theorem witness_FaultMarkIsSticky :
    (after (step (running 1#32 2 [.write 16 0x008 1#32]))).faults = ⟨true, false⟩ ∧
      stepsTo (hostNext [.read 8 0x004]) ∧ (after (step (hostNext [.read 8 0x004]))).faults = ⟨true, false⟩ ∧
      stepsTo (running 1#32 2 [wr .cmd 1#32]) ∧
      (after (step (running 1#32 2 [wr .cmd 1#32]))).faults = ⟨false, true⟩ :=
  ⟨by decide, ⟨_, rfl⟩, by decide, ⟨_, rfl⟩, by decide⟩

theorem witness_StepKeepsContextInvariants :
    ContextInv State.reset ∧ stepsTo State.reset ∧ ContextInv (aesReady 16#32 fipsBlock) ∧
      stepsTo (aesReady 16#32 fipsBlock) := by
  refine ⟨by unfold ContextInv AesContextInv CamContextInv; decide +kernel, ⟨_, rfl⟩,
    by unfold ContextInv AesContextInv CamContextInv; decide +kernel, ⟨_, rfl⟩⟩

theorem witness_StepKeepsSchedulesWellMade :
    ContextInv (camReady 16#32 rfcBlock) ∧ ScheduleInv (camReady 16#32 rfcBlock) ∧
      (camReady 16#32 rfcBlock).camNr = 18#32 ∧ stepsTo (camReady 16#32 rfcBlock) ∧
      ContextInv (aesReady 16#32 fipsBlock) ∧ ScheduleInv (aesReady 16#32 fipsBlock) ∧
      stepsTo (aesReady 16#32 fipsBlock) ∧ ContextInv (camReady 24#32 rfcBlock) ∧
      ScheduleInv (camReady 24#32 rfcBlock) ∧ stepsTo (camReady 24#32 rfcBlock) := by
  refine ⟨by unfold ContextInv AesContextInv CamContextInv; decide +kernel,
    by unfold ScheduleInv AesRecurrence MaterialDerived SubkeysFollowTable; decide +kernel, by decide +kernel,
    ⟨_, rfl⟩, by unfold ContextInv AesContextInv CamContextInv; decide +kernel,
    by unfold ScheduleInv AesRecurrence MaterialDerived SubkeysFollowTable; decide +kernel, ⟨_, rfl⟩,
    by unfold ContextInv AesContextInv CamContextInv; decide +kernel,
    by unfold ScheduleInv AesRecurrence MaterialDerived SubkeysFollowTable; decide +kernel, ⟨_, rfl⟩⟩

theorem witness_ContextsChangeOnlyAtInitOrReset :
    stepsTo (running 1#32 1 []) ∧ stepsTo { running 1#32 1 [] with keylen := 16#32 } ∧
      (after (step { running 1#32 1 [] with keylen := 16#32 })).aesValid = true :=
  ⟨⟨_, rfl⟩, ⟨_, rfl⟩, by decide⟩

theorem witness_OutputChangesOnlyAtABlockCommandOrReset : stepsTo (running 2#32 1 []) := ⟨_, rfl⟩

theorem witness_OperandsChangeOnlyByHostWriteOrReset :
    stepsTo (hostNext [wr (.key 0) 1#32]) ∧ (after (step (hostNext [wr (.key 0) 1#32]))).key[0] = 1#32 :=
  ⟨⟨_, rfl⟩, by decide⟩

theorem witness_BusyFollowsCommandWriteAndCompletion :
    (stepsTo (running 4#32 1 []) ∧ (running 4#32 1 []).busy = true ∧
      (after (step (running 4#32 1 []))).busy = false) ∧
    (stepsTo (hostNext [wr .cmd 4#32]) ∧ (hostNext [wr .cmd 4#32]).busy = false ∧
      (after (step (hostNext [wr .cmd 4#32]))).busy = true) ∧
    (stepsTo (running 4#32 2 []) ∧ (after (step (running 4#32 2 []))).busy = true) :=
  ⟨⟨⟨_, rfl⟩, by decide, by decide⟩, ⟨⟨_, rfl⟩, by decide, by decide⟩, ⟨_, rfl⟩, by decide⟩

theorem witness_LatchedCommandReachesCompletion :
    (running 1#32 5 [.wait, rd .keylen, .write 32 0x0058 1#32]).busy = true ∧
      (running 1#32 5 [.wait, rd .keylen, .write 32 0x0058 1#32]).FaultFree ∧
      ∀ op ∈ (running 1#32 5 [.wait, rd .keylen, .write 32 0x0058 1#32]).inputs, op.allowedWhileBusy = true := by
  decide

theorem witness_WaitEndsWithTheOutcome :
    (hostNext [.wait]).inputs = [.wait] ∧ (hostNext [.wait]).FaultFree ∧
      (running 1#32 3 [.wait, .idle]).inputs = .wait :: [.idle] ∧ (running 1#32 3 [.wait, .idle]).FaultFree ∧
      (running 1#32 3 [.wait, .idle]).busy = true := by decide

theorem witness_AesInitExpandsTheKey :
    SupportedLength (withKey 16#32 fipsKey).keylen ∧ SupportedLength (withKey 24#32 fipsKey).keylen ∧
      SupportedLength (withKey 32#32 fipsKey).keylen := by decide

theorem witness_InitRejectsOtherKeyLengths :
    ¬ SupportedLength State.reset.keylen ∧ ¬ SupportedLength (withKey 0x110#32 fipsKey).keylen ∧
      ¬ SupportedLength (withKey 33#32 fipsKey).keylen := by decide

theorem witness_BlockCommandsNeedTheirContext :
    State.reset.aesValid = false ∧ State.reset.camValid = false := by decide

theorem witness_AesEncIsTheCipherOfItsRoundKeys :
    (aesReady 16#32 fipsBlock).aesValid = true ∧ 1 ≤ (aesReady 16#32 fipsBlock).aesNr.toNat := by decide +kernel

theorem witness_AesDecIsTheInverseCipherOfItsRoundKeys :
    (aesReady 32#32 fipsBlock).aesValid = true ∧ 1 ≤ (aesReady 32#32 fipsBlock).aesNr.toNat := by decide +kernel

theorem witness_AesDecryptionUndoesEncryption : (aesReady 24#32 fipsBlock).aesValid = true := by decide +kernel

theorem witness_AesRoundTripAfterInit : SupportedLength (withKey 24#32 fipsKey).keylen := by decide

theorem witness_AesScheduleDependsOnlyOnTheKey :
    SupportedLength (withKey 16#32 fipsKey).keylen ∧
      (camReady 16#32 rfcBlock).keylen = (withKey 16#32 rfcKey).keylen ∧
      (∀ i, i < 16 → (keyBytes (camReady 16#32 rfcBlock).key)[i]? = (keyBytes (withKey 16#32 rfcKey).key)[i]?) ∧
      (∃ t, exec .aesInit (withKey 16#32 rfcKey) = .next t) ∧
      ∃ t, exec .aesInit (camReady 16#32 rfcBlock) = .next t :=
  ⟨by decide, by decide +kernel, by decide +kernel, ⟨_, rfl⟩, ⟨_, rfl⟩⟩

theorem witness_CamInitDerivesTheContext :
    SupportedLength (withKey 16#32 rfcKey).keylen ∧ SupportedLength (withKey 24#32 rfcKey).keylen ∧
      SupportedLength (withKey 32#32 rfcKey).keylen := by decide

theorem witness_RotWinIsTheTopOfTheRotation : 0 < 192 ∧ 191 < 192 := by decide

theorem witness_CamEncIsTheFeistelNetwork :
    (camReady 16#32 rfcBlock).camValid = true ∧ (camReady 16#32 rfcBlock).camNr = 18#32 ∧
      (camReady 24#32 rfcBlock).camValid = true ∧ (camReady 24#32 rfcBlock).camNr = 24#32 := by decide +kernel

theorem witness_CamDecIsTheReversedFeistelNetwork :
    (camReady 16#32 rfcBlock).camValid = true ∧ (camReady 16#32 rfcBlock).camNr = 18#32 ∧
      (camReady 32#32 rfcBlock).camValid = true ∧ (camReady 32#32 rfcBlock).camNr = 24#32 := by decide +kernel

theorem witness_CamDecryptionUndoesEncryption : (camReady 32#32 rfcBlock).camValid = true := by decide +kernel

theorem witness_CamRoundTripAfterInit : SupportedLength (withKey 24#32 rfcKey).keylen := by decide

theorem witness_CamContextDependsOnlyOnTheKey :
    SupportedLength (withKey 16#32 rfcKey).keylen ∧
      (withKey 16#32 (rfcKey.set 7 0#32)).keylen = (withKey 16#32 rfcKey).keylen ∧
      (∀ i, i < 16 → (keyBytes (withKey 16#32 (rfcKey.set 7 0#32)).key)[i]? =
        (keyBytes (withKey 16#32 rfcKey).key)[i]?) ∧
      (∃ t, exec .camInit (withKey 16#32 rfcKey) = .next t) ∧
      ∃ t, exec .camInit (withKey 16#32 (rfcKey.set 7 0#32)) = .next t :=
  ⟨by decide, by decide, by decide +kernel, ⟨_, rfl⟩, ⟨_, rfl⟩⟩

theorem witness_Complemented192BitKeyIsA256BitKey :
    let s := withKey 24#32 rfcKey
    let s' := withKey 32#32 ((rfcKey.set 6 0xffeeddcc#32).set 7 0xbbaa9988#32)
    s.keylen = 24#32 ∧ s'.keylen = 32#32 ∧ (∀ k : Fin 6, s'.key[k.val] = s.key[k.val]) ∧
      s'.key[6] = ~~~ s.key[4] ∧ s'.key[7] = ~~~ s.key[5] := by decide +kernel

theorem witness_InitFrame :
    (∃ t, exec .aesInit (withKey 16#32 fipsKey) = .next t) ∧ (∃ t, exec .aesInit State.reset = .next t) ∧
      (∃ t, exec .camInit (withKey 24#32 rfcKey) = .next t) ∧ ∃ t, exec .camInit State.reset = .next t :=
  ⟨⟨_, rfl⟩, ⟨_, rfl⟩, ⟨_, rfl⟩, ⟨_, rfl⟩⟩

theorem witness_BlockCommandFrame :
    (∃ t, exec .aesEnc (aesReady 16#32 fipsBlock) = .next t) ∧ (∃ t, exec .aesDec State.reset = .next t) ∧
      (∃ t, exec .camEnc (camReady 16#32 rfcBlock) = .next t) ∧ ∃ t, exec .camDec State.reset = .next t :=
  ⟨⟨_, rfl⟩, ⟨_, rfl⟩, ⟨_, rfl⟩, ⟨_, rfl⟩⟩

theorem witness_ContextsAreIndependent :
    (∃ t, exec .aesEnc (aesReady 16#32 fipsBlock) = .next t) ∧ ∃ t, exec .camInit (aesReady 16#32 fipsBlock) = .next t :=
  ⟨⟨_, rfl⟩, ⟨_, rfl⟩⟩

theorem witness_KeyNotationLoadsTheKey :
    keyStringWellFormed [0xA5#8] = true ∧ keyStringWellFormed (List.replicate 32 0xA5#8) = true ∧
      (hostNext (keyOps (List.replicate 32 0xA5#8) ++ [.wait])).busy = false ∧
      (hostNext (keyOps (List.replicate 32 0xA5#8) ++ [.wait])).FaultFree := by decide

theorem witness_BlockNotationLoadsAndReadsABlock :
    (hostNext (blkOps (blockOfWords fipsBlock) ++ [.idle])).busy = false ∧
      (hostNext (blkOps (blockOfWords fipsBlock) ++ [.idle])).FaultFree ∧
      (hostNext (outOps ++ [.idle])).busy = false ∧ (hostNext (outOps ++ [.idle])).FaultFree := by decide

end Sys2Proof.Tests
end

section
/-! PROOFS. The way of a latched command to its completion step (R15, R340, R343): what the outside may do while
BUSY = 1 changes only the fields that are the model's own, and each of its steps counts the latency down by one. -/

namespace Sys2Proof.Machine

/-! ### The outside while a command runs -/

/-- What the rules allow while BUSY = 1 changes only the count of draws, the observations and the inputs, where a `wait`
may stand in front again. -/
theorem performOp_of_allowed {s : State} {op : HostOp} (ho : op.allowedWhileBusy = true) :
    ∃ n l o, performOp s op = s.withModelFields s.latLeft n l o ∧ (l = s.inputs ∨ l = op :: s.inputs) := by
  cases op with
  | read width off =>
    rcases hostRead_cases s width off with ⟨hw, -⟩ | ⟨-, n, v, h⟩
    · simp [HostOp.allowedWhileBusy, hw] at ho
    · exact ⟨n, s.inputs, _, h, .inl rfl⟩
  | write width off v =>
    obtain ⟨hw, hr⟩ : accessWellFormed width off = true ∧ (regAt off).any Reg.hostWritable = false := by
      simpa [HostOp.allowedWhileBusy] using ho
    have hperf : performOp s (.write width off v) = writeReg s off v := if_pos hw
    rcases writeReg_cases s off v with h | ⟨r, hat, hwr, -⟩
    · exact ⟨s.draws, s.inputs, s.observed, hperf.trans h, .inl rfl⟩
    · simp [hat, hwr] at hr
  | wait =>
    obtain ⟨n, v, l, h, hl⟩ := hostWait_cases s
    exact ⟨n, l, _, h, hl⟩
  | idle => exact ⟨s.draws, s.inputs, s.observed, rfl, .inl rfl⟩
  | reset => cases ho

/-- While BUSY = 1, an allowed step of the outside counts the latency down by one, changes no field of the block, and
leaves allowed inputs. -/
theorem hostStep_of_allowed {s : State} (hb : s.busy = true) (ha : ∀ op ∈ s.inputs, op.allowedWhileBusy = true) :
    ∃ n l o, hostStep s = s.withModelFields (s.latLeft - 1) n l o ∧ ∀ op ∈ l, op.allowedWhileBusy = true := by
  have htick : tickLatency s = s.withModelFields (s.latLeft - 1) s.draws s.inputs s.observed := if_pos hb
  cases hi : s.inputs with
  | nil => exact ⟨_, _, _, (hostStep_nil hi).trans htick, ha⟩
  | cons op rest =>
    rw [hi, List.forall_mem_cons] at ha
    obtain ⟨hop, hrest⟩ := ha
    obtain ⟨n, l, o, h, hl⟩ := performOp_of_allowed
      (s := s.withModelFields (s.latLeft - 1) s.draws rest s.observed) hop
    refine ⟨n, l, o, by rw [hostStep_cons hi, htick]; exact h, ?_⟩
    rcases hl with rfl | rfl
    · exact hrest
    · exact List.forall_mem_cons.2 ⟨hop, hrest⟩

/-- Inputs that are allowed while BUSY = 1 do not begin with a reset. -/
theorem resetNext_of_allowed {s : State} (ha : ∀ op ∈ s.inputs, op.allowedWhileBusy = true) :
    resetNext s = false := by
  rw [Bool.eq_false_iff, ne_eq, resetNext_iff]
  rintro ⟨rest, hi⟩
  exact absurd (ha .reset (by simp [hi])) (by decide)

/-! ### The run to the completion step -/

/-- Where neither a reset, a recorded fault nor a due completion goes first, the outside moves. -/
theorem step_of_outside {s : State} (hr : resetNext s = false) (hf : s.FaultFree) (he : engineReady s = false) :
    step s = .next (hostStep s) := by
  simp [step, hr, hf, he]

/-- While BUSY = 1 and the outside does only what is allowed, a run within the remaining latency reaches the completion
step and changes only the fields that are the model's own. -/
theorem run_reaches_completion {s : State} (hb : s.busy = true) (hf : s.FaultFree)
    (ha : ∀ op ∈ s.inputs, op.allowedWhileBusy = true) :
    ∃ k lat n l o, k ≤ s.latLeft ∧ run k s = .next (s.withModelFields lat n l o) ∧
      engineNext (s.withModelFields lat n l o) = true := by
  have hr := resetNext_of_allowed ha
  cases he : engineReady s with
  | true =>
    have hnext : engineNext s = true := by simp [engineNext, he, hr, hf]
    exact ⟨0, s.latLeft, s.draws, s.inputs, s.observed, Nat.zero_le _, rfl, hnext⟩
  | false =>
    have hlat : 1 < s.latLeft := by simpa [engineReady, hb] using he
    obtain ⟨n, l, o, hstep, hl⟩ := hostStep_of_allowed hb ha
    obtain ⟨k, lat, n', l', o', hk, hrun, hnext⟩ :=
      run_reaches_completion (s := s.withModelFields (s.latLeft - 1) n l o) hb hf hl
    refine ⟨k + 1, lat, n', l', o', ?_, ?_, hnext⟩
    · rw [withModelFields_latLeft] at hk
      omega
    · simp only [run, step_of_outside hr hf he, hstep]
      exact hrun
termination_by s.latLeft
decreasing_by simp only [withModelFields_latLeft]; omega

/-- Settles O36, by induction on the remaining latency: each step before the completion step counts it down and changes
only the fields that are the model's own. -/
theorem latchedCommandReachesCompletion : Obligations.LatchedCommandReachesCompletion := by
  intro s hb hf ha
  obtain ⟨k, lat, n, l, o, hk, hrun, hnext⟩ := run_reaches_completion hb hf ha
  exact ⟨k, _, hk, hrun, hnext, rfl, ⟨rfl, rfl, rfl⟩, ⟨rfl, rfl, rfl⟩, ⟨rfl, rfl, rfl, rfl⟩, rfl⟩

end Sys2Proof.Machine
end

section
/-! PROOFS. The register window: the register at an offset is unique and stands where the map prints it, and one host
access to a register while BUSY = 0 (R32, R44, R75). -/

namespace Sys2Proof.Machine

/-! ### Offsets -/

/-- An aligned hit in a group that stands at its printed offsets is at the offset of its register. -/
theorem offset_of_regInGroup {base n off : Nat} {mk : Fin n → Reg} {r : Reg}
    (hmk : ∀ k : Fin n, (mk k).offset = base + 4 * k.val) (hbase : base % 4 = 0) (hoff : off % 4 = 0)
    (h : regInGroup base n mk off = some r) : off = r.offset := by
  obtain ⟨k, hle, hk, rfl⟩ := regInGroup_eq_some.1 h
  rw [hmk]
  omega

/-- The register found at an offset has that offset. -/
theorem offset_of_regAt {off : Nat} {r : Reg} (h : regAt off = some r) : off = r.offset := by
  unfold regAt at h
  split at h
  · rename_i hoff
    obtain ⟨g, hg, hr⟩ := List.exists_of_findSome?_eq_some h
    fin_cases hg <;> exact offset_of_regInGroup (by simp [Reg.offset]) (by decide) hoff hr
  · cases h

/-- Every register is found at its offset: the groups before its own miss. -/
@[simp] theorem regAt_offset (r : Reg) : regAt r.offset = some r := by
  cases r
  case cmd | status | keylen | blocksize | aesNr | camNr => rfl
  all_goals
    simp (disch := omega) [regAt, regGroups, Reg.offset, List.findSome?_cons, regInGroup_miss, regInGroup_hit]

/-- Every register stands at a multiple of 4 inside the window. -/
theorem offset_lt (r : Reg) : r.offset % 4 = 0 ∧ r.offset < 0x3000 := by
  cases r
  case cmd | status | keylen | blocksize | aesNr | camNr => decide
  all_goals simp only [Reg.offset]; omega

/-- A 32-bit access at a register's offset is a supported one. -/
@[simp] theorem accessWellFormed_offset (r : Reg) : accessWellFormed 32 r.offset = true := by
  simp [accessWellFormed, offset_lt]

/-! ### Reads -/

/-- A read at a register's offset returns its value, but for a draw while BUSY = 1. -/
theorem readReg_offset {s : State} {r : Reg} (h : (s.busy && r.drawnWhileBusy) = false) :
    readReg s r.offset = (regValue s r, s) := by
  simp [readReg, h]

/-- Settles O3: the offset of a group's entry is that of its register, at which only that register is found and read. -/
theorem registerMapIsOneToOne : Obligations.RegisterMapIsOneToOne := by
  refine ⟨fun r => ⟨regAt_offset r, offset_lt r⟩, fun off r => offset_of_regAt, ?_, fun s hb => ?_⟩
  · exact ⟨regAt_offset .cmd, regAt_offset .status, regAt_offset .keylen, regAt_offset .blocksize,
      regAt_offset .aesNr, regAt_offset .camNr, fun k => regAt_offset (.key k),
      fun k => ⟨regAt_offset (.din k), regAt_offset (.dout k)⟩, fun i => regAt_offset (.aesRk i),
      fun i => regAt_offset (.camKm i), fun i => regAt_offset (.camSk i)⟩
  · have read (r : Reg) : (readReg s r.offset).1 = regValue s r := by rw [readReg_offset (by simp [hb])]
    exact ⟨read .cmd, read .status, read .keylen, read .blocksize, read .aesNr, read .camNr,
      fun k => read (.key k), fun k => ⟨read (.din k), read (.dout k)⟩, fun i => read (.aesRk i),
      fun i => read (.camKm i), fun i => read (.camSk i)⟩

/-- Zero extension puts 24 zero bits above a byte (R44). -/
theorem zext32_eq_append (b : Byte) : zext32 b = 0#24 ++ b := (BitVec.setWidth_eq_append (by decide)).trans rfl

/-- Settles O12: no ROM entry is drawn while BUSY = 1, so each reads as its table's entry in every state. -/
theorem romWindowsReadTheirTables : Obligations.RomWindowsReadTheirTables := by
  intro s
  have read {r : Reg} (hr : r.drawnWhileBusy = false) : (readReg s r.offset).1 = regValue s r := by
    rw [readReg_offset (by simp [hr])]
  have readByte {r : Reg} {b : Byte} (hr : r.drawnWhileBusy = false) (hv : regValue s r = zext32 b) :
      (readReg s r.offset).1 = 0#24 ++ b := by rw [read hr, hv, zext32_eq_append]
  refine ⟨fun i => ⟨?_, ?_, ?_, ?_, ?_, ?_, ?_⟩, fun i hi => ?_, fun i hi => ?_⟩
  · exact readByte (r := .aesSbox i) rfl rfl
  · exact readByte (r := .aesInvSbox i) rfl rfl
  · exact readByte (r := .gfMul2 i) rfl rfl
  · exact readByte (r := .camSbox1 i) rfl rfl
  · exact readByte (r := .camSbox2 i) rfl rfl
  · exact readByte (r := .camSbox3 i) rfl rfl
  · exact readByte (r := .camSbox4 i) rfl rfl
  · exact readByte (r := .aesRcon ⟨i, hi⟩) rfl rfl
  · exact read (r := .camSigma ⟨i, hi⟩) rfl

/-- The fields of the STATUS layout (R33). -/
theorem packStatus_fields (c a : Bool) (e : ErrCode) (b : Bool) :
    (packStatus c a e b).getLsbD 0 = b ∧ (packStatus c a e b).getLsbD 1 = decide (e ≠ .noError) ∧
      (packStatus c a e b).extractLsb' 2 2 = 0#2 ∧ (packStatus c a e b).extractLsb' 4 4 = e.code ∧
      (packStatus c a e b).getLsbD 8 = a ∧ (packStatus c a e b).getLsbD 9 = c ∧
      (packStatus c a e b).extractLsb' 10 22 = 0#22 := by
  cases e <;> revert c a b <;> decide

/-- Settles O13, field by field of the STATUS layout. -/
theorem statusWordHoldsItsFields : Obligations.StatusWordHoldsItsFields := by
  intro s
  obtain ⟨hbusy, herror, hlow, hcode, haes, hcam, hhigh⟩ := packStatus_fields s.camValid s.aesValid s.errcode s.busy
  refine ⟨hbusy, herror, hlow, hcode.trans ?_, haes, hcam, hhigh⟩
  cases s.errcode <;> rfl

/-! ### Steps of the outside while BUSY = 0 -/

/-- While BUSY = 0 no latency is counted. -/
theorem tickLatency_idle {s : State} (hb : s.busy = false) : tickLatency s = s := by simp [tickLatency, hb]

/-- While BUSY = 0 no completion is due. -/
theorem engineReady_idle {s : State} (hb : s.busy = false) : engineReady s = false := by simp [engineReady, hb]

/-- While BUSY = 0 and no fault is recorded, a step does what the next input does. -/
theorem step_idle {s : State} {op : HostOp} {rest : List HostOp} (hb : s.busy = false) (hf : s.FaultFree)
    (hi : s.inputs = op :: rest) : step s = .next (performOp { s with inputs := rest } op) := by
  rw [step_of_hostTurn ⟨hi, hf, engineReady_idle hb⟩, tickLatency_idle hb]

/-- A host write to a register while BUSY = 0 is its store. -/
theorem step_write_idle {s : State} {r : Reg} {v : Word} {rest : List HostOp} (hb : s.busy = false)
    (hf : s.FaultFree) (hi : s.inputs = wr r v :: rest) :
    step s = .next (storeReg { s with inputs := rest } r v) := by
  rw [step_idle hb hf hi]
  simp [performOp, wr, hostWrite, writeReg, hb]

/-- A host read of a register while BUSY = 0 observes its value and changes nothing else. -/
theorem step_read_idle {s : State} {r : Reg} {rest : List HostOp} (hb : s.busy = false)
    (hf : s.FaultFree) (hi : s.inputs = rd r :: rest) :
    step s = .next (s.withModelFields s.latLeft s.draws rest (s.observed ++ [regValue s r])) := by
  have hread := readReg_offset (s := { s with inputs := rest }) (r := r) (by simp [hb])
  have hval : regValue { s with inputs := rest } r = regValue s r := regValue_withModelFields s _ _ _ _ r
  rw [step_idle hb hf hi]
  simp only [performOp, rd, hostRead, accessWellFormed_offset, if_true, hread, hval]
  rfl

/-- The registers of a command's operands, which the host writes while BUSY = 0 (R75). -/
def Reg.IsOperand (r : Reg) : Prop := r = .keylen ∨ (∃ k, r = .key k) ∨ ∃ k, r = .din k

/-- What a store never touches, whatever the register. -/
theorem storeReg_frame (s : State) (r : Reg) (v : Word) :
    SameAesContext s (storeReg s r v) ∧ SameCamContext s (storeReg s r v) ∧ (storeReg s r v).dout = s.dout ∧
      (storeReg s r v).faults = s.faults ∧ (storeReg s r v).inputs = s.inputs ∧
      (storeReg s r v).observed = s.observed := by
  cases r <;> exact ⟨⟨rfl, rfl, rfl⟩, ⟨rfl, rfl, rfl, rfl⟩, rfl, rfl, rfl, rfl⟩

/-- A store to an operand register latches no command. -/
theorem storeReg_operand {r : Reg} (hr : r.IsOperand) (s : State) (v : Word) :
    (storeReg s r v).busy = s.busy ∧ (storeReg s r v).errcode = s.errcode ∧ (storeReg s r v).pending = s.pending ∧
      (storeReg s r v).draws = s.draws := by
  obtain rfl | ⟨k, rfl⟩ | ⟨k, rfl⟩ := hr <;> exact ⟨rfl, rfl, rfl, rfl⟩

/-- A store to an operand register is read back there, and every other register reads as before. -/
theorem regValue_storeReg {r : Reg} (hr : r.IsOperand) (s : State) (v : Word) (r' : Reg) :
    regValue (storeReg s r v) r' = if r' = r then v else regValue s r' := by
  obtain rfl | ⟨k, rfl⟩ | ⟨k, rfl⟩ := hr <;> cases r' <;>
    simp [regValue, storeReg, statusWord, Vector.getElem_set, Fin.ext_iff, eq_comm]

/-- Settles O6: the step is the store of an operand register. -/
theorem configurationWritesStoreTheirValue : Obligations.ConfigurationWritesStoreTheirValue := by
  rintro s rest r v ⟨hi, hf, -⟩ hb hr
  obtain ⟨haes, hcam, -, hfaults, hinputs, hobs⟩ := storeReg_frame { s with inputs := rest } r v
  obtain ⟨hbusy, herr, hpend, hdraws⟩ := storeReg_operand hr { s with inputs := rest } v
  have hval := regValue_storeReg hr { s with inputs := rest } v
  refine ⟨_, step_write_idle hb hf hi, ?_, fun r' hne => ?_, hbusy.trans hb, herr, haes, hcam, hfaults, hpend, hdraws,
    hobs, hinputs⟩
  · rw [hval, if_pos rfl]
  · rw [hval, if_neg hne]
    exact regValue_withModelFields s _ _ _ _ r'

/-- Settles O7: the step is the latching of the command word. -/
theorem commandWriteLatchesTheWord : Obligations.CommandWriteLatchesTheWord := by
  rintro s rest v ⟨hi, hf, -⟩ hb
  refine ⟨_, step_write_idle (r := .cmd) hb hf hi, rfl, rfl, rfl, rfl, Nat.le_add_left 1 _, fun r hr => ?_,
    ⟨rfl, rfl, rfl⟩, ⟨rfl, rfl, rfl, rfl⟩, rfl, rfl, rfl⟩
  cases r with
  | status => exact absurd rfl hr
  | _ => rfl

end Sys2Proof.Machine
end

section
/-! PROOFS. The host's pseudo-operations run from BUSY = 0 (R111, R113): a list of writes to operand registers stores
them all, a list of reads observes them all, and each changes nothing else. -/

namespace Sys2Proof.Machine

/-! ### Runs of accesses while BUSY = 0 -/

/-- A run goes on from the state its first step answers. -/
theorem run_succ_of_step {s t : State} (h : step s = .next t) (k : Nat) : run (k + 1) s = run k t := by
  simp [run, h]

/-- Writes of `f r` to operand registers `r` leave those registers at `f` and the others as they were. -/
theorem run_writes (f : Reg → Word) (rest : List HostOp) (rs : List Reg) (hrs : ∀ r ∈ rs, r.IsOperand) {s : State}
    (hi : s.inputs = rs.map (fun r => wr r (f r)) ++ rest) (hb : s.busy = false) (hf : s.FaultFree) :
    ∃ t, run rs.length s = .next t ∧ t.inputs = rest ∧ t.FaultFree ∧
      ∀ r, regValue t r = if r ∈ rs then f r else regValue s r := by
  induction rs generalizing s with
  | nil => exact ⟨s, rfl, hi, hf, fun r => by simp⟩
  | cons r rs ih =>
    rw [List.forall_mem_cons] at hrs
    obtain ⟨hr, hrs⟩ := hrs
    let u : State := { s with inputs := rs.map (fun r => wr r (f r)) ++ rest }
    have hstep : step s = .next (storeReg u r (f r)) := step_write_idle hb hf hi
    obtain ⟨-, -, -, hfaults, hinputs, -⟩ := storeReg_frame u r (f r)
    obtain ⟨hbusy, -⟩ := storeReg_operand hr u (f r)
    obtain ⟨t, hrun, hti, htf, hval⟩ := ih hrs hinputs (hbusy.trans hb) (by rw [State.FaultFree, hfaults]; exact hf)
    refine ⟨t, (run_succ_of_step hstep _).trans hrun, hti, htf, fun r' => ?_⟩
    have hu : regValue u r' = regValue s r' := regValue_withModelFields s _ _ _ _ r'
    rw [hval, regValue_storeReg hr, hu]
    by_cases h : r' = r <;> simp [h]

/-- Reads of registers observe their values, in order, and change nothing but the inputs. -/
theorem run_reads (rest : List HostOp) (rs : List Reg) {s : State} (hi : s.inputs = rs.map rd ++ rest)
    (hb : s.busy = false) (hf : s.FaultFree) :
    run rs.length s = .next (s.withModelFields s.latLeft s.draws rest (s.observed ++ rs.map (regValue s))) := by
  induction rs generalizing s with
  | nil =>
    obtain rfl : s.inputs = rest := hi
    simp [run, State.withModelFields]
  | cons r rs ih =>
    rw [List.map_cons, List.cons_append] at hi
    rw [List.length_cons, run_succ_of_step (step_read_idle hb hf hi), ih (withModelFields_inputs ..) hb hf]
    have hval : rs.map (regValue (s.withModelFields s.latLeft s.draws (rs.map rd ++ rest)
        (s.observed ++ [regValue s r]))) = rs.map (regValue s) :=
      List.map_congr_left fun r' _ => regValue_withModelFields s _ _ _ _ r'
    rw [hval]
    simp [State.withModelFields]

/-! ### `key` -/

/-- The registers that `key` writes, in its order (R111). -/
def keyRegs (k : List Byte) : List Reg :=
  .keylen :: ((List.finRange 8).filter fun j => decide (j.val < (k.length + 3) / 4)).map .key

/-- What `key` writes to a register (R111). -/
def keyLoad (k : List Byte) : Reg → Word
  | .keylen => BitVec.ofNat 32 k.length
  | .key j => be32 k (4 * j.val)
  | _ => 0#32

/-- The expansion of `key` writes `keyLoad` to each of `keyRegs`. -/
theorem keyOps_eq (k : List Byte) : keyOps k = (keyRegs k).map fun r => wr r (keyLoad k r) := by
  simp [keyOps, keyRegs, keyLoad]

/-- `key` writes KEYLEN and the first ceil(n/4) KEY registers. -/
theorem mem_keyRegs (k : List Byte) (r : Reg) :
    r ∈ keyRegs k ↔ r = .keylen ∨ ∃ j : Fin 8, j.val < (k.length + 3) / 4 ∧ r = .key j := by
  simp [keyRegs, eq_comm]

/-- Of the eight KEY registers, `m` are below the m-th. -/
theorem length_filter_lt {m : Nat} (hm : m ≤ 8) :
    ((List.finRange 8).filter fun j => decide (j.val < m)).length = m := by
  interval_cases m <;> rfl

/-- Byte i of the key registers is byte `i mod 4` of register `i div 4` (R36). -/
theorem getElem?_keyBytes (key : Vector Word 8) (i : Nat) (h : i < 32) :
    (keyBytes key)[i]? = some (wordByte (key[i / 4]'(by omega)) (i % 4)) := by
  have hbytes : keyBytes key = unbe32 key[0] ++ unbe32 key[1] ++ unbe32 key[2] ++ unbe32 key[3] ++
      unbe32 key[4] ++ unbe32 key[5] ++ unbe32 key[6] ++ unbe32 key[7] := by
    conv_lhs => rw [key_eq key]
    simp [keyBytes]
  rw [hbytes]
  interval_cases i <;> rfl

/-- Byte i of the word at j of a byte string is byte j + i of the string (R17). -/
theorem wordByte_be32 (b : List Byte) (j i : Nat) (h : i < 4) : wordByte (be32 b j) i = b.getD (j + i) 0 := by
  interval_cases i <;> simp [be32]

/-- Key registers that hold the words of a byte string of at most 32 bytes hold its bytes. -/
theorem keyString_of_words {key : Vector Word 8} {k : List Byte} (hk : k.length ≤ 32)
    (h : ∀ j : Fin 8, j.val < (k.length + 3) / 4 → key[j] = be32 k (4 * j.val)) : keyString key k.length = k := by
  apply List.ext_getElem?
  intro i
  by_cases hi : i < k.length
  · have hword := h ⟨i / 4, by omega⟩ (by show i / 4 < _; omega)
    simp only [Fin.getElem_fin] at hword
    rw [keyString, List.getElem?_take_of_lt hi, getElem?_keyBytes key i (by omega), hword,
      wordByte_be32 _ _ _ (Nat.mod_lt i (by decide)), Nat.div_add_mod]
    simp [List.getD_eq_getElem?_getD, hi]
  · have hlen := length_keyString key k.length
    rw [List.getElem?_eq_none (by omega), List.getElem?_eq_none (by omega)]

/-- Settles O59: `key` is a list of writes to operand registers, and its words are those of the key string. -/
theorem keyNotationLoadsTheKey : Obligations.KeyNotationLoadsTheKey := by
  intro s k rest hwf hi hb hf
  obtain ⟨hpos, hlen⟩ : 1 ≤ k.length ∧ k.length ≤ 32 := by simpa [keyStringWellFormed] using hwf
  have hops : ∀ r ∈ keyRegs k, r.IsOperand := by
    intro r hr
    obtain rfl | ⟨j, -, rfl⟩ := (mem_keyRegs k r).1 hr
    · exact .inl rfl
    · exact .inr (.inl ⟨j, rfl⟩)
  have hcount : (keyRegs k).length = 1 + (k.length + 3) / 4 := by
    rw [keyRegs, List.length_cons, List.length_map, length_filter_lt (by omega), Nat.add_comm]
  rw [keyOps_eq] at hi
  obtain ⟨t, hrun, hti, htf, hval⟩ := run_writes (keyLoad k) rest (keyRegs k) hops hi hb hf
  have hkey (j : Fin 8) : t.key[j] = if j.val < (k.length + 3) / 4 then be32 k (4 * j.val) else s.key[j] := by
    simpa [mem_keyRegs, regValue, keyLoad] using hval (.key j)
  have hkeylen : t.keylen = BitVec.ofNat 32 k.length := by simpa [mem_keyRegs, regValue, keyLoad] using hval .keylen
  refine ⟨t, hcount ▸ hrun, hti, ?_, keyString_of_words hlen fun j hj => ?_, fun j hj => ?_, fun r h1 h2 => ?_, htf⟩
  · rw [hkeylen, BitVec.toNat_ofNat]
    omega
  · rw [hkey, if_pos hj]
  · rw [hkey, if_neg (by omega)]
  · simp [hval, mem_keyRegs, h1, h2]

/-! ### `blk` and `out` -/

/-- What `blk` writes to a register (R113). -/
def blockLoad (b : Block) : Reg → Word
  | .din k => (wordsOfBlock b)[k]
  | _ => 0#32

/-- Settles O60: `blk` is a list of writes to DIN, `out` one of reads of DOUT. -/
theorem blockNotationLoadsAndReadsABlock : Obligations.BlockNotationLoadsAndReadsABlock := by
  constructor
  · intro s b rest hi hb hf
    have hblk : blkOps b = ((List.finRange 4).map Reg.din).map fun r => wr r (blockLoad b r) := by
      simp [blkOps, blockLoad]
    rw [hblk] at hi
    obtain ⟨t, hrun, hti, htf, hval⟩ := run_writes (blockLoad b) rest _ (by simp [Reg.IsOperand]) hi hb hf
    have hdin : t.din = wordsOfBlock b := by
      apply Vector.ext
      intro k hk
      simpa [regValue, blockLoad] using hval (.din ⟨k, hk⟩)
    refine ⟨t, hrun, hti, by rw [hdin, blockOfWords_wordsOfBlock], fun r hr => ?_, htf⟩
    simp [hval, fun k => (hr k).symm]
  · intro s rest hi hb hf
    have hout : outOps = ((List.finRange 4).map Reg.dout).map rd := by simp [outOps]
    rw [hout] at hi
    have hdout : ((List.finRange 4).map Reg.dout).map (regValue s) = s.dout.toList := by
      apply List.ext_getElem (by simp)
      intro i _ _
      simp [regValue]
    refine ⟨_, run_reads rest _ hi hb hf, rfl, ?_, wordsOfBlock_blockOfWords s.dout,
      sameRegisters_of_fields (by simp), hf⟩
    rw [withModelFields_observed, hdout]

end Sys2Proof.Machine
end

section
/-! PROOFS. What each command does and leaves alone (R51, R52, R103), and that the engine's step is the decoded command
(R46, R101). -/

namespace Sys2Proof.Machine

/-! ### The outcome of a command -/

/-- The state a successful aes.init leaves (R165). -/
def aesInitResult (s : State) (nk nr : Nat) : State :=
  finish { s with
    aesRk := (aesContext s.key s.keylen.toNat nk nr).1,
    aesNr := (aesContext s.key s.keylen.toNat nk nr).2, aesValid := true }

/-- The state a successful cam.init leaves (R228). -/
def camInitResult (s : State) (nr : Nat) : State :=
  finish { s with
    camKm := (camContext s.key s.keylen.toNat nr).1,
    camSk := (camContext s.key s.keylen.toNat nr).2.1,
    camNr := (camContext s.key s.keylen.toNat nr).2.2, camValid := true }

/-- The state a successful ENC or DEC with output `d` leaves (R186, R258). -/
def blockResult (s : State) (d : Vector Word 4) : State := finish { s with dout := d }

/-- Every outcome of a command, by the name of the state it leaves. -/
theorem exec_next_cases {i : Instr} {s t : State} (h : exec i s = .next t) :
    (∃ e, t = raiseError e s) ∨
    (i = .aesInit ∧ ∃ nk nr, aesParams s.keylen = some (nk, nr) ∧ t = aesInitResult s nk nr) ∨
    (i = .camInit ∧ ∃ nr w, camParams s.keylen = some (nr, w) ∧ t = camInitResult s nr) ∨
    ((i = .aesEnc ∨ i = .aesDec ∨ i = .camEnc ∨ i = .camDec) ∧ ∃ d, t = blockResult s d) := by
  obtain ⟨e, -, he⟩ | ⟨hi, -, nk, nr, hp, he⟩ | ⟨hi, -, nr, w, hp, he⟩ | ⟨hi, d, he⟩ := exec_cases i s <;>
    obtain rfl := Host.Outcome.next.inj (h.symm.trans he)
  · exact .inl ⟨e, rfl⟩
  · exact .inr (.inl ⟨hi, nk, nr, hp, rfl⟩)
  · exact .inr (.inr (.inl ⟨hi, nr, w, hp, rfl⟩))
  · exact .inr (.inr (.inr ⟨hi, d, rfl⟩))

/-! ### Frames -/

/-- A command ends with BUSY = 0 and touches neither its operands nor what lies outside the block (R103). -/
theorem exec_frame {i : Instr} {s t : State} (h : exec i s = .next t) :
    t.busy = false ∧ SameOperands s t ∧ SameOutside s t := by
  obtain ⟨e, rfl⟩ | ⟨-, nk, nr, -, rfl⟩ | ⟨-, nr, w, -, rfl⟩ | ⟨-, d, rfl⟩ := exec_next_cases h <;>
    exact ⟨rfl, ⟨rfl, rfl, rfl⟩, rfl, rfl, rfl, rfl, rfl, rfl⟩

/-- A command leaves the AES context alone, or is a successful aes.init. -/
theorem exec_aesContext {i : Instr} {s t : State} (h : exec i s = .next t) :
    SameAesContext s t ∨
      (i = .aesInit ∧ ∃ nk nr, aesParams s.keylen = some (nk, nr) ∧ t = aesInitResult s nk nr) := by
  obtain ⟨e, rfl⟩ | hinit | ⟨-, nr, w, -, rfl⟩ | ⟨-, d, rfl⟩ := exec_next_cases h
  · exact .inl ⟨rfl, rfl, rfl⟩
  · exact .inr hinit
  · exact .inl ⟨rfl, rfl, rfl⟩
  · exact .inl ⟨rfl, rfl, rfl⟩

/-- A command leaves the Camellia context alone, or is a successful cam.init. -/
theorem exec_camContext {i : Instr} {s t : State} (h : exec i s = .next t) :
    SameCamContext s t ∨
      (i = .camInit ∧ ∃ nr w, camParams s.keylen = some (nr, w) ∧ t = camInitResult s nr) := by
  obtain ⟨e, rfl⟩ | ⟨-, nk, nr, -, rfl⟩ | hinit | ⟨-, d, rfl⟩ := exec_next_cases h
  · exact .inl ⟨rfl, rfl, rfl, rfl⟩
  · exact .inl ⟨rfl, rfl, rfl, rfl⟩
  · exact .inr hinit
  · exact .inl ⟨rfl, rfl, rfl, rfl⟩

/-- A command leaves DOUT alone, or is a successful ENC or DEC. -/
theorem exec_dout {i : Instr} {s t : State} (h : exec i s = .next t) :
    t.dout = s.dout ∨
      ((i = .aesEnc ∨ i = .aesDec ∨ i = .camEnc ∨ i = .camDec) ∧ ∃ d, t = blockResult s d) := by
  obtain ⟨e, rfl⟩ | ⟨-, nk, nr, -, rfl⟩ | ⟨-, nr, w, -, rfl⟩ | hblock := exec_next_cases h
  · exact .inl rfl
  · exact .inl rfl
  · exact .inl rfl
  · exact .inr hblock

/-- Ending with an error changes no register but STATUS. -/
theorem regValue_raiseError (e : ErrCode) (s : State) {r : Reg} (h : r ≠ .status) :
    regValue (raiseError e s) r = regValue s r := by
  cases r with
  | status => exact absurd rfl h
  | _ => rfl

/-- A successful aes.init changes no register but STATUS, AES_NR and AES_RKi. -/
theorem regValue_aesInitResult (s : State) (nk nr : Nat) {r : Reg} (hstatus : r ≠ .status) (hnr : r ≠ .aesNr)
    (hrk : ∀ i, r ≠ .aesRk i) : regValue (aesInitResult s nk nr) r = regValue s r := by
  cases r with
  | status => exact absurd rfl hstatus
  | aesNr => exact absurd rfl hnr
  | aesRk i => exact absurd rfl (hrk i)
  | _ => rfl

/-- A successful cam.init changes no register but STATUS, CAM_NR, CAM_KMi and CAM_SKi. -/
theorem regValue_camInitResult (s : State) (nr : Nat) {r : Reg} (hstatus : r ≠ .status) (hnr : r ≠ .camNr)
    (hkm : ∀ i, r ≠ .camKm i) (hsk : ∀ i, r ≠ .camSk i) : regValue (camInitResult s nr) r = regValue s r := by
  cases r with
  | status => exact absurd rfl hstatus
  | camNr => exact absurd rfl hnr
  | camKm i => exact absurd rfl (hkm i)
  | camSk i => exact absurd rfl (hsk i)
  | _ => rfl

/-- A successful ENC or DEC changes no register but STATUS and DOUTk. -/
theorem regValue_blockResult (s : State) (d : Vector Word 4) {r : Reg} (hstatus : r ≠ .status)
    (hdout : ∀ k, r ≠ .dout k) : regValue (blockResult s d) r = regValue s r := by
  cases r with
  | status => exact absurd rfl hstatus
  | dout k => exact absurd rfl (hdout k)
  | _ => rfl

/-- Settles O56: an INIT ends with an error or writes its own context. -/
theorem initFrame : Obligations.InitFrame := by
  refine fun s t => ⟨fun h => ⟨fun r hstatus hnr hrk => ?_, ?_, (exec_frame h).2.2⟩,
    fun h => ⟨fun r hstatus hnr hkm hsk => ?_, ?_, (exec_frame h).2.2⟩⟩
  · obtain ⟨e, rfl⟩ | ⟨-, nk, nr, -, rfl⟩ | ⟨hi, -⟩ | ⟨hi, -⟩ := exec_next_cases h
    · exact regValue_raiseError e s hstatus
    · exact regValue_aesInitResult s nk nr hstatus hnr hrk
    · cases hi
    · simp at hi
  · simpa using exec_camContext h
  · obtain ⟨e, rfl⟩ | ⟨hi, -⟩ | ⟨-, nr, w, -, rfl⟩ | ⟨hi, -⟩ := exec_next_cases h
    · exact regValue_raiseError e s hstatus
    · cases hi
    · exact regValue_camInitResult s nr hstatus hnr hkm hsk
    · simp at hi
  · simpa using exec_aesContext h

/-- Settles O57: an ENC or DEC ends with an error or writes DOUT. -/
theorem blockCommandFrame : Obligations.BlockCommandFrame := by
  intro s t i hi h
  have hnoInit : i ≠ .aesInit ∧ i ≠ .camInit := by obtain rfl | rfl | rfl | rfl := hi <;> decide
  obtain ⟨hnoAes, hnoCam⟩ := hnoInit
  refine ⟨fun r hstatus hdout => ?_, (exec_aesContext h).resolve_right fun ⟨h, _⟩ => hnoAes h,
    (exec_camContext h).resolve_right fun ⟨h, _⟩ => hnoCam h, (exec_frame h).2.2⟩
  obtain ⟨e, rfl⟩ | ⟨hi, -⟩ | ⟨hi, -⟩ | ⟨-, d, rfl⟩ := exec_next_cases h
  · exact regValue_raiseError e s hstatus
  · exact absurd hi hnoAes
  · exact absurd hi hnoCam
  · exact regValue_blockResult s d hstatus hdout

/-! ### Independence of the two contexts -/

/-- An AES command with another Camellia context in place does the same and leaves that context alone. -/
theorem exec_withCamContext {i : Instr} (hi : i = .aesInit ∨ i = .aesEnc ∨ i = .aesDec) {s t : State}
    (h : exec i s = .next t) (u : State) : exec i (withCamContext s u) = .next (withCamContext t u) := by
  obtain rfl | rfl | rfl := hi
  all_goals
    simp only [exec, execAesInit, execAesEnc, execAesDec, withCamContext] at h ⊢
    split at h <;> obtain rfl := Host.Outcome.next.inj h <;> simp [*, finish, raiseError]

/-- A Camellia command with another AES context in place does the same and leaves that context alone. -/
theorem exec_withAesContext {i : Instr} (hi : i = .camInit ∨ i = .camEnc ∨ i = .camDec) {s t : State}
    (h : exec i s = .next t) (u : State) : exec i (withAesContext s u) = .next (withAesContext t u) := by
  obtain rfl | rfl | rfl := hi
  all_goals
    simp only [exec, execCamInit, execCamEnc, execCamDec, withAesContext] at h ⊢
    split at h <;> obtain rfl := Host.Outcome.next.inj h <;> simp [*, finish, raiseError]

/-- Settles O58: only the own INIT writes a context, and no command reads the other's. -/
theorem contextsAreIndependent : Obligations.ContextsAreIndependent := by
  intro s t u i h
  refine ⟨fun hi => ⟨?_, exec_withCamContext hi h u⟩, fun hi => ⟨?_, exec_withAesContext hi h u⟩⟩
  · refine (exec_camContext h).resolve_right fun ⟨hcam, _⟩ => ?_
    simp [hcam] at hi
  · refine (exec_aesContext h).resolve_right fun ⟨haes, _⟩ => ?_
    simp [haes] at hi

/-! ### The engine's step -/

/-- When the engine moves next, the step is the completion step. -/
theorem step_of_engineNext {s : State} (h : engineNext s = true) : step s = completionStep s := by
  obtain ⟨⟨hready, hreset⟩, hfault⟩ : (engineReady s = true ∧ resetNext s = false) ∧ s.FaultFree := by
    simpa [engineNext] using h
  simp [step, hready, hreset, hfault]

/-- The completion step of a legal word is its command. -/
theorem completionStep_of_decode {s : State} {i : Instr} (h : decode s.pending = .ok i) :
    completionStep s = exec i s := by
  simp [completionStep, h]

/-- Settles O23: the engine's step is the completion step, which is the decoded command. -/
theorem stepExecutesTheDecodedCommand : Obligations.StepExecutesTheDecodedCommand := by
  intro s i hnext hdec _
  rw [step_of_engineNext hnext, completionStep_of_decode hdec]

/-- Dropping the resets in front leaves none in front. -/
theorem head?_dropWhile_reset (l : List HostOp) : (l.dropWhile (· == HostOp.reset)).head? ≠ some .reset := by
  intro h
  have := List.head?_dropWhile_not (· == HostOp.reset) l
  simp [h] at this

/-- With a command word placed, the engine moves next. -/
theorem engineNext_placeCommand (s : State) (w : Word) : engineNext (placeCommand s w) = true := by
  have hreset : resetNext (placeCommand s w) = false := by
    simpa [resetNext, placeCommand] using head?_dropWhile_reset s.inputs
  have hready : engineReady (placeCommand s w) = true := rfl
  have hfault : recordedFault (placeCommand s w).faults = none := rfl
  simp [engineNext, hreset, hready, hfault]

/-- An opcode-table word of 32 bits is decoded as the command word of its low 32 bits. -/
theorem decode_of_decodeTableWord {w : Nat} {i : Instr} (h : decodeTableWord 32 w = some i) :
    decode (BitVec.ofNat 32 (w % 2 ^ 32)) = .ok i := by
  simp only [decodeTableWord, Nat.mod_lt w (show 0 < 2 ^ 32 by decide), if_true] at h
  generalize decode (BitVec.ofNat 32 (w % 2 ^ 32)) = d at h ⊢
  cases d with
  | error e => cases h
  | ok j => rw [Option.some.inj h]

/-- Settles O24: the placed word is PENDING of a state in which the engine moves next. -/
theorem placedWordRunsNext : Obligations.PlacedWordRunsNext := by
  intro s w i h
  refine ⟨?_, ⟨rfl, rfl, rfl⟩, ⟨rfl, rfl, rfl, rfl⟩, ⟨rfl, rfl, rfl⟩, rfl⟩
  exact (step_of_engineNext (engineNext_placeCommand s _)).trans
    (completionStep_of_decode (decode_of_decodeTableWord h))

end Sys2Proof.Machine
end

section
/-! PROOFS. What every step of the machine leaves alone: the fault mark, the two contexts, DOUT, and BUSY with the
latched command (R33, R38, R48, R51, R341). -/

namespace Sys2Proof.Machine

/-! ### Completion -/

/-- A word with no reserved bit set is below 8. -/
theorem toNat_lt_of_decode {v : Word} {i : Instr} (h : decode v = .ok i) : v.toNat < 8 := by
  by_contra hv
  have hres : v.extractLsb' 3 29 ≠ 0#29 := by
    intro h0
    have := congrArg BitVec.toNat h0
    simp only [BitVec.extractLsb'_toNat, BitVec.toNat_ofNat, Nat.shiftRight_eq_div_pow] at this
    omega
  simp [decode, hres] at h

/-- Only a command's own word decodes to it (R102). -/
theorem eq_encode_of_decode {v : Word} {i : Instr} (h : decode v = .ok i) : v = encode i := by
  have hsmall : ∀ n < 8, decode (BitVec.ofNat 32 n) = .ok i → BitVec.ofNat 32 n = encode i := by
    cases i <;> decide
  have hword := hsmall v.toNat (toNat_lt_of_decode h)
  rw [BitVec.ofNat_toNat, BitVec.setWidth_eq] at hword
  exact hword h

/-- A completion ends with an error or is the command whose word is PENDING. -/
theorem completionStep_next {s t : State} (h : completionStep s = .next t) :
    t = raiseError .illegalCommand s ∨ ∃ i, s.pending = encode i ∧ exec i s = .next t := by
  obtain ⟨i, hdec, hexec⟩ | ⟨-, herr⟩ := completionStep_cases s
  · exact .inr ⟨i, eq_encode_of_decode hdec, hexec.symm.trans h⟩
  · exact .inl (Host.Outcome.next.inj (h.symm.trans herr))

/-- A completion ends with BUSY = 0 and touches neither the operands nor what lies outside the block. -/
theorem completionStep_frame {s t : State} (h : completionStep s = .next t) :
    t.busy = false ∧ SameOperands s t ∧ SameOutside s t := by
  obtain rfl | ⟨i, -, hexec⟩ := completionStep_next h
  · exact ⟨rfl, ⟨rfl, rfl, rfl⟩, rfl, rfl, rfl, rfl, rfl, rfl⟩
  · exact exec_frame hexec

/-! ### The fault mark -/

/-- An access that is not well formed is of another width, misaligned or outside the window (R73). -/
theorem accessWellFormed_eq_false {width off : Nat} (h : accessWellFormed width off = false) :
    width ≠ 32 ∨ off % 4 ≠ 0 ∨ 0x3000 ≤ off := by
  simp only [accessWellFormed, Bool.and_eq_false_iff, beq_eq_false_iff_ne, decide_eq_false_iff_not] at h
  omega

/-- Settles O29, by the steps that record a fault: an unsupported access and a write while BUSY = 1. -/
theorem faultMarkIsSticky : Obligations.FaultMarkIsSticky := by
  intro s t h
  obtain ⟨rest, -, rfl⟩ | ⟨-, -, hc⟩ | ⟨hr, -, -, rfl⟩ := step_cases h
  · simp +contextual
  · obtain ⟨-, -, -, hfaults, -⟩ := completionStep_frame hc
    simp +contextual [hfaults]
  · obtain ⟨lat, n, l, o, hs | ⟨hs, width, off, hin, hbad⟩ | ⟨off, v, rest, r, hin, hat, hw, ⟨hb, hs⟩ | ⟨-, hs⟩⟩⟩ :=
      hostStep_cases hr
    · simp +contextual [hs]
    · obtain ⟨rest, hin⟩ := hin
      rw [hs]
      exact ⟨fun _ => rfl, id, fun _ => .inr ⟨width, off, rest, hin, accessWellFormed_eq_false hbad⟩, .inl⟩
    · rw [hs]
      exact ⟨id, fun _ => rfl, .inl, fun _ => .inr ⟨hb, off, v, rest, r, hin, hat, (hostWritable_iff r).1 hw⟩⟩
    · obtain ⟨-, -, -, hfaults, -⟩ := storeReg_frame (s.withModelFields lat n l o) r v
      rw [hs, hfaults]
      exact ⟨id, id, .inl, .inl⟩

/-! ### Contexts and output -/

/-- A step of the outside that is no reset leaves both contexts and DOUT alone. -/
theorem hostStep_frame {s : State} (hr : resetNext s = false) :
    SameAesContext s (hostStep s) ∧ SameCamContext s (hostStep s) ∧ (hostStep s).dout = s.dout := by
  obtain ⟨lat, n, l, o, hs | ⟨hs, -⟩ | ⟨-, v, -, r, -, -, -, ⟨-, hs⟩ | ⟨-, hs⟩⟩⟩ := hostStep_cases hr <;> rw [hs]
  · exact ⟨⟨rfl, rfl, rfl⟩, ⟨rfl, rfl, rfl, rfl⟩, rfl⟩
  · exact ⟨⟨rfl, rfl, rfl⟩, ⟨rfl, rfl, rfl, rfl⟩, rfl⟩
  · exact ⟨⟨rfl, rfl, rfl⟩, ⟨rfl, rfl, rfl, rfl⟩, rfl⟩
  · obtain ⟨haes, hcam, hdout, -⟩ := storeReg_frame (s.withModelFields lat n l o) r v
    exact ⟨haes, hcam, hdout⟩

/-- A step leaves the AES context alone, or is a reset, or a successful aes.init (R51). -/
theorem step_aesContext {s t : State} (h : step s = .next t) :
    SameAesContext s t ∨ (resetNext s = true ∧ SameAesContext State.reset t) ∨
      (engineNext s = true ∧ s.pending = encode .aesInit ∧
        ∃ nk nr, aesParams s.keylen = some (nk, nr) ∧ t = aesInitResult s nk nr) := by
  obtain ⟨rest, hi, rfl⟩ | ⟨-, hnext, hc⟩ | ⟨hr, -, -, rfl⟩ := step_cases h
  · exact .inr (.inl ⟨(resetNext_iff s).2 ⟨rest, hi⟩, rfl, rfl, rfl⟩)
  · obtain rfl | ⟨i, hpend, hexec⟩ := completionStep_next hc
    · exact .inl ⟨rfl, rfl, rfl⟩
    · obtain hsame | ⟨rfl, hinit⟩ := exec_aesContext hexec
      · exact .inl hsame
      · exact .inr (.inr ⟨hnext, hpend, hinit⟩)
  · exact .inl (hostStep_frame hr).1

/-- A step leaves the Camellia context alone, or is a reset, or a successful cam.init (R51). -/
theorem step_camContext {s t : State} (h : step s = .next t) :
    SameCamContext s t ∨ (resetNext s = true ∧ SameCamContext State.reset t) ∨
      (engineNext s = true ∧ s.pending = encode .camInit ∧
        ∃ nr w, camParams s.keylen = some (nr, w) ∧ t = camInitResult s nr) := by
  obtain ⟨rest, hi, rfl⟩ | ⟨-, hnext, hc⟩ | ⟨hr, -, -, rfl⟩ := step_cases h
  · exact .inr (.inl ⟨(resetNext_iff s).2 ⟨rest, hi⟩, rfl, rfl, rfl, rfl⟩)
  · obtain rfl | ⟨i, hpend, hexec⟩ := completionStep_next hc
    · exact .inl ⟨rfl, rfl, rfl, rfl⟩
    · obtain hsame | ⟨rfl, hinit⟩ := exec_camContext hexec
      · exact .inl hsame
      · exact .inr (.inr ⟨hnext, hpend, hinit⟩)
  · exact .inl (hostStep_frame hr).2.1

/-- A key length with AES parameters is supported. -/
theorem supportedLength_of_aesParams {n : Word} {p : Nat × Nat} (h : aesParams n = some p) : SupportedLength n := by
  by_contra hn
  simp [(aesParams_eq_none n).2 hn] at h

/-- A key length with Camellia parameters is supported. -/
theorem supportedLength_of_camParams {n : Word} {p : Nat × Nat} (h : camParams n = some p) : SupportedLength n := by
  by_contra hn
  simp [(camParams_eq_none n).2 hn] at h

/-- Settles O32, by what a step can do to each context. -/
theorem contextsChangeOnlyAtInitOrReset : Obligations.ContextsChangeOnlyAtInitOrReset := by
  intro s t h
  constructor
  · obtain hsame | ⟨hreset, -⟩ | ⟨hnext, hpend, nk, nr, hp, rfl⟩ := step_aesContext h
    · exact .inl hsame
    · exact .inr (.inl hreset)
    · exact .inr (.inr ⟨hnext, hpend, supportedLength_of_aesParams hp, rfl, rfl⟩)
  · obtain hsame | ⟨hreset, -⟩ | ⟨hnext, hpend, nr, w, hp, rfl⟩ := step_camContext h
    · exact .inl hsame
    · exact .inr (.inl hreset)
    · exact .inr (.inr ⟨hnext, hpend, supportedLength_of_camParams hp, rfl, rfl⟩)

/-- Settles O33: of all that a step can do, only a reset and a successful ENC or DEC write DOUT. -/
theorem outputChangesOnlyAtABlockCommandOrReset : Obligations.OutputChangesOnlyAtABlockCommandOrReset := by
  intro s t h
  obtain ⟨rest, hi, -⟩ | ⟨-, hnext, hc⟩ | ⟨hr, -, -, rfl⟩ := step_cases h
  · exact .inr (.inl ((resetNext_iff s).2 ⟨rest, hi⟩))
  · obtain rfl | ⟨i, hpend, hexec⟩ := completionStep_next hc
    · exact .inl rfl
    · obtain hsame | ⟨hblock, d, rfl⟩ := exec_dout hexec
      · exact .inl hsame
      · refine .inr (.inr ⟨hnext, rfl, ?_⟩)
        rw [hpend]
        obtain rfl | rfl | rfl | rfl := hblock <;> decide
  · exact .inl (hostStep_frame hr).2.2

/-! ### BUSY -/

/-- Settles O35: only a store to CMD sets BUSY, and while it is set a step of the outside stores nothing. -/
theorem busyFollowsCommandWriteAndCompletion : Obligations.BusyFollowsCommandWriteAndCompletion := by
  intro s t h
  obtain ⟨rest, hi, rfl⟩ | ⟨-, hnext, hc⟩ | ⟨hr, -, -, rfl⟩ := step_cases h
  · have hreset := (resetNext_iff s).2 ⟨rest, hi⟩
    exact ⟨fun _ _ => .inr hreset, fun _ => nofun, fun _ => nofun⟩
  · obtain ⟨hbusy, -⟩ := completionStep_frame hc
    simp [hbusy, hnext]
  · obtain ⟨lat, n, l, o, hs | ⟨hs, -⟩ | ⟨off, v, rest, r, hin, hat, hw, ⟨hb, hs⟩ | ⟨hb, hs⟩⟩⟩ := hostStep_cases hr <;>
      rw [hs]
    · simp +contextual [SameOperands]
    · simp +contextual [SameOperands]
    · simp [hb, SameOperands]
    · refine ⟨fun h => absurd h (by simp [hb]), fun _ ht => ?_, fun h => absurd h (by simp [hb])⟩
      obtain rfl | hop : r = .cmd ∨ r.IsOperand := (hostWritable_iff r).1 hw
      · obtain rfl : off = 0x000 := offset_of_regAt hat
        exact ⟨v, rest, hin, rfl⟩
      · obtain ⟨hbusy, -⟩ := storeReg_operand hop (s.withModelFields lat n l o) v
        simp [hbusy, hb] at ht

end Sys2Proof.Machine
end

section
/-! PROOFS. Camellia on numbers of 64 and 128 bits: the F-function by its byte equations (R253), the derivation rounds
(R223) and the windows of a rotated quadruple (R224). -/

namespace Sys2Proof.Machine

/-! ### Bytes of a word -/

/-- The XOR of two words, byte by byte. -/
theorem ofBytes_xor (a b c d a' b' c' d' : Byte) :
    ofBytes a b c d ^^^ ofBytes a' b' c' d' = ofBytes (a ^^^ a') (b ^^^ b') (c ^^^ c') (d ^^^ d') := by
  unfold ofBytes
  rw [← BitVec.xor_append, ← BitVec.xor_append, ← BitVec.xor_append]

/-- Rotations by whole bytes move the bytes. -/
theorem ofBytes_rotate (a b c d : Byte) :
    (ofBytes a b c d).rotateLeft 8 = ofBytes b c d a ∧ (ofBytes a b c d).rotateLeft 16 = ofBytes c d a b ∧
      (ofBytes a b c d).rotateRight 8 = ofBytes d a b c := by
  refine ⟨?_, ?_, ?_⟩ <;>
  · apply BitVec.eq_of_getLsbD_eq
    intro i hi
    simp only [ofBytes, BitVec.getLsbD_rotateLeft, BitVec.getLsbD_rotateRight, BitVec.getLsbD_append]
    interval_cases i <;> simp

/-- Two words one after the other are their eight bytes. -/
theorem ofBytes_append_ofBytes (a b c d e f g h : Byte) :
    ofBytes a b c d ++ ofBytes e f g h = a ++ b ++ c ++ d ++ e ++ f ++ g ++ h := by
  apply BitVec.eq_of_getLsbD_eq
  intro i hi
  simp only [ofBytes, BitVec.getLsbD_append]
  interval_cases i <;> simp

/-- The first four bytes of a 64-bit half are those of its high word. -/
theorem halfByte_append_high (x y : Word) {j : Nat} (h : j < 4) : halfByte (x ++ y) j = wordByte x j := by
  apply BitVec.eq_of_getLsbD_eq
  intro i hi
  simp only [halfByte, wordByte, BitVec.getLsbD_extractLsb', BitVec.getLsbD_append]
  rw [if_neg (by omega), show 56 - 8 * j + i - 32 = 24 - 8 * j + i by omega]

/-- The last four bytes of a 64-bit half are those of its low word. -/
theorem halfByte_append_low (x y : Word) {j : Nat} (h : j < 4) : halfByte (x ++ y) (4 + j) = wordByte y j := by
  apply BitVec.eq_of_getLsbD_eq
  intro i hi
  simp only [halfByte, wordByte, BitVec.getLsbD_extractLsb', BitVec.getLsbD_append]
  rw [if_pos (by omega), show 56 - 8 * (4 + j) + i = 24 - 8 * j + i by omega]

/-! ### The F-function and the derivation rounds -/

/-- CamP on the S-outputs t1 to t8, with every byte reduced (R252, R253): zl first, then zr. -/
theorem camP_ofBytes (t1 t2 t3 t4 t5 t6 t7 t8 : Byte) :
    camP (ofBytes t1 t2 t3 t4) (ofBytes t5 t6 t7 t8) =
      (ofBytes (t1 ^^^ t2 ^^^ t6 ^^^ t7 ^^^ t8) (t2 ^^^ t3 ^^^ t5 ^^^ t7 ^^^ t8) (t3 ^^^ t4 ^^^ t5 ^^^ t6 ^^^ t8)
          (t1 ^^^ t4 ^^^ t5 ^^^ t6 ^^^ t7),
        ofBytes (t1 ^^^ t3 ^^^ t4 ^^^ t6 ^^^ t7 ^^^ t8) (t1 ^^^ t2 ^^^ t4 ^^^ t5 ^^^ t7 ^^^ t8)
          (t1 ^^^ t2 ^^^ t3 ^^^ t5 ^^^ t6 ^^^ t8) (t2 ^^^ t3 ^^^ t4 ^^^ t5 ^^^ t6 ^^^ t7)) := by
  simp only [camP, ofBytes_rotate, ofBytes_xor]
  have cancel (x y : Byte) : x ^^^ (x ^^^ y) = y := by rw [← BitVec.xor_assoc, BitVec.xor_self, BitVec.zero_xor]
  have leftComm (x y z : Byte) : x ^^^ (y ^^^ z) = y ^^^ (x ^^^ z) := by
    rw [← BitVec.xor_assoc, BitVec.xor_comm x y, BitVec.xor_assoc]
  congr 2 <;> simp only [BitVec.xor_comm, leftComm, cancel, BitVec.xor_self, BitVec.xor_zero]

/-- The XOR of two 64-bit halves, word by word. -/
theorem half_xor (x y x' y' : Word) :
    ((x ++ y : BitVec 64) ^^^ (x' ++ y' : BitVec 64)) = (x ^^^ x') ++ (y ^^^ y') := BitVec.xor_append

/-- The F-function on 64-bit halves is given by the byte equations (R253). -/
theorem camF_append (x1 x2 k1 k2 : Word) :
    (camF x1 x2 k1 k2).1 ++ (camF x1 x2 k1 k2).2 = camF64 (x1 ++ x2) (k1 ++ k2) := by
  have hlow (x y : Word) : halfByte (x ++ y) 4 = wordByte y 0 ∧ halfByte (x ++ y) 5 = wordByte y 1 ∧
      halfByte (x ++ y) 6 = wordByte y 2 ∧ halfByte (x ++ y) 7 = wordByte y 3 :=
    ⟨halfByte_append_low x y (j := 0) (by decide), halfByte_append_low x y (j := 1) (by decide),
      halfByte_append_low x y (j := 2) (by decide), halfByte_append_low x y (j := 3) (by decide)⟩
  simp only [camF, camS, camP_ofBytes, camF64, half_xor, hlow, halfByte_append_high, Nat.reduceLT,
    ofBytes_append_ofBytes]

/-- A quadruple is its two 64-bit halves. -/
theorem toBits_eq_halves (q : Quad) :
    q.toBits = (q.q0 ++ q.q1 : BitVec 64) ++ (q.q2 ++ q.q3 : BitVec 64) := by
  rw [Quad.toBits, BitVec.append_assoc]
  rfl

/-- A Feistel round on two 64-bit halves. -/
theorem feistelRound_append (k l r : BitVec 64) : feistelRound k (l ++ r) = (r ^^^ camF64 l k) ++ l := by
  have hl : (l ++ r : BitVec 128).extractLsb' 64 64 = l := BitVec.extractLsb'_append_eq_left
  have hr : (l ++ r : BitVec 128).extractLsb' 0 64 = r := BitVec.extractLsb'_append_eq_right
  rw [feistelRound, hl, hr]

/-- A round of the derivation is a Feistel round on the quadruple as one number (R223, R254). -/
theorem toBits_sigmaRound (i : Nat) (q : Quad) : (sigmaRound i q).toBits = feistelRound (sigma64 i) q.toBits := by
  rw [toBits_eq_halves q, feistelRound_append, sigma64, ← camF_append, half_xor, toBits_eq_halves]
  rfl

/-- The XOR of quadruples is that of their numbers. -/
theorem toBits_xor (a b : Quad) : (a.xor b).toBits = a.toBits ^^^ b.toBits := by
  unfold Quad.toBits
  rw [BitVec.xor_append, BitVec.xor_append, BitVec.xor_append]
  rfl

/-- The derived KA and KB are those of KL and KR (R222, R223). -/
theorem deriveKeyMaterial_toBits (kl kr : Quad) :
    (deriveKeyMaterial kl kr).ka.toBits = kaOf kl.toBits kr.toBits ∧
      (deriveKeyMaterial kl kr).kb.toBits = kbOf (deriveKeyMaterial kl kr).ka.toBits kr.toBits := by
  simp only [deriveKeyMaterial, kaOf, kbOf, toBits_sigmaRound, toBits_xor, and_self]

/-- The key-material file of a derivation is derived. -/
theorem materialDerived_file (kl kr : Quad) : MaterialDerived (deriveKeyMaterial kl kr).file := by
  obtain ⟨hka, hkb⟩ := deriveKeyMaterial_toBits kl kr
  have hkl : quadAt (deriveKeyMaterial kl kr).file 0 = kl := quadAt_file _ .kl
  have hkr : quadAt (deriveKeyMaterial kl kr).file 4 = kr := quadAt_file _ .kr
  have hka' : quadAt (deriveKeyMaterial kl kr).file 8 = (deriveKeyMaterial kl kr).ka := quadAt_file _ .ka
  have hkb' : quadAt (deriveKeyMaterial kl kr).file 12 = (deriveKeyMaterial kl kr).kb := quadAt_file _ .kb
  rw [MaterialDerived, hkl, hkr, hka', hkb']
  exact ⟨hka, hkb⟩

/-! ### Windows of a rotated quadruple -/

/-- Bit p, counted from the top, of a quadruple rotated left by n is bit p + n of the quadruple, counted so too. -/
theorem getLsbD_rotateLeft_toBits (q : Quad) (n p : Nat) (h : p < 128) :
    (q.toBits.rotateLeft n).getLsbD (127 - p) = (q.word ((p + n) / 32)).getLsbD (31 - (p + n) % 32) := by
  have hbit (k : Nat) (hk : k < 128) : q.toBits.getLsbD k = (q.word (3 - k / 32)).getLsbD (k % 32) :=
    getLsbD_toBits q k hk
  rw [BitVec.getLsbD_rotateLeft, ← word_mod q ((p + n) / 32)]
  by_cases hlt : 127 - p < n % 128
  · rw [decide_eq_true hlt, cond_true, hbit _ (by omega),
      show 3 - (128 - n % 128 + (127 - p)) / 32 = (p + n) / 32 % 4 by omega,
      show (128 - n % 128 + (127 - p)) % 32 = 31 - (p + n) % 32 by omega]
  · rw [decide_eq_false hlt, cond_false, decide_eq_true (by omega), Bool.true_and, hbit _ (by omega),
      show 3 - (127 - p - n % 128) / 32 = (p + n) / 32 % 4 by omega,
      show (127 - p - n % 128) % 32 = 31 - (p + n) % 32 by omega]

/-- Two neighbouring words shifted together by m bits: the low bits of the first, then the high bits of the second. -/
theorem getLsbD_shifted_pair (v w : Word) {m i : Nat} (hm : m < 32) (hi : i < 32) :
    ((v <<< m) ||| (w >>> (32 - m))).getLsbD i = if m ≤ i then v.getLsbD (i - m) else w.getLsbD (32 - m + i) := by
  rw [BitVec.getLsbD_or, BitVec.getLsbD_shiftLeft, BitVec.getLsbD_ushiftRight]
  split_ifs with h
  · simp [hi, h, BitVec.getLsbD_of_ge w (32 - m + i) (by omega)]
  · simp [h]

/-- The 32 bits of a quadruple from bit `32k + m` on, counted from the top (R224). -/
def windowWord (q : Quad) (k m : Nat) : Word := (q.word k <<< m) ||| (q.word (k + 1) >>> (32 - m))

/-- A window is two words of 32 bits from bit n on, also where n is a multiple of 32. -/
theorem rotWin_eq (q : Quad) (n : Nat) :
    rotWin q n = (windowWord q (n / 32) (n % 32), windowWord q (n / 32 + 1) (n % 32)) := by
  by_cases h : n % 32 = 0
  · have hout (w : Word) : w >>> 32 = 0#32 := BitVec.ushiftRight_eq_zero (Nat.le_refl 32)
    simp [rotWin, windowWord, h, hout]
  · simp only [rotWin, windowWord, h, if_false]

/-- Bit i of a window's word, counted from the top of the quadruple. -/
theorem getLsbD_windowWord (q : Quad) (k : Nat) {m i : Nat} (hm : m < 32) (hi : i < 32) :
    (windowWord q k m).getLsbD i =
      (q.word ((31 - i + (32 * k + m)) / 32)).getLsbD (31 - (31 - i + (32 * k + m)) % 32) := by
  rw [windowWord, getLsbD_shifted_pair _ _ hm hi]
  split_ifs with h
  · rw [show (31 - i + (32 * k + m)) / 32 = k by omega, show 31 - (31 - i + (32 * k + m)) % 32 = i - m by omega]
  · rw [show (31 - i + (32 * k + m)) / 32 = k + 1 by omega,
      show 31 - (31 - i + (32 * k + m)) % 32 = 32 - m + i by omega]

/-- The window is the top of the rotated quadruple (R224). -/
theorem rotWin_append (q : Quad) (n : Nat) :
    (rotWin q n).1 ++ (rotWin q n).2 = (q.toBits.rotateLeft n).extractLsb' 64 64 := by
  apply BitVec.eq_of_getLsbD_eq
  intro i hi
  rw [BitVec.getLsbD_append, BitVec.getLsbD_extractLsb', decide_eq_true hi, Bool.true_and,
    show 64 + i = 127 - (63 - i) by omega, getLsbD_rotateLeft_toBits _ _ _ (by omega)]
  rw [rotWin_eq]
  have hm : n % 32 < 32 := Nat.mod_lt n (by decide)
  split_ifs with h
  · rw [getLsbD_windowWord _ _ hm h, show 31 - i + (32 * (n / 32 + 1) + n % 32) = 63 - i + n by omega]
  · rw [getLsbD_windowWord _ _ hm (by omega), show 31 - (i - 32) + (32 * (n / 32) + n % 32) = 63 - i + n by omega]

end Sys2Proof.Machine
end

section
/-! PROOFS. The context invariants and the schedules (R49, R50, R163, R221, R223, R226): each INIT establishes them, and
every other step leaves the contexts alone or resets them. -/

namespace Sys2Proof.Machine

/-! ### The invariants speak of their own context alone -/

/-- The AES part of `ScheduleInv` (R163). -/
def AesScheduleInv (s : State) : Prop := s.aesValid = true → AesRecurrence s.aesRk s.aesNr.toNat

/-- The Camellia part of `ScheduleInv` (R221, R223, R226). -/
def CamScheduleInv (s : State) : Prop :=
  s.camValid = true → MaterialDerived s.camKm ∧
    (s.camNr = 18#32 → ∀ i : Fin 4, s.camKm[i.val + 4] = 0#32) ∧
    SubkeysFollowTable s.camKm s.camSk (if s.camNr = 18#32 then romCamKs1 else romCamKs2)

/-- The two parts are `ScheduleInv`. -/
theorem scheduleInv_iff (s : State) : ScheduleInv s ↔ AesScheduleInv s ∧ CamScheduleInv s := Iff.rfl

/-- States with the same AES context share its invariants. -/
theorem aesInv_of_same {s t : State} (h : SameAesContext s t) :
    (AesContextInv s → AesContextInv t) ∧ (AesScheduleInv s → AesScheduleInv t) := by
  obtain ⟨hvalid, hnr, hrk⟩ := h
  simp [AesContextInv, AesScheduleInv, hvalid, hnr, hrk]

/-- States with the same Camellia context share its invariants. -/
theorem camInv_of_same {s t : State} (h : SameCamContext s t) :
    (CamContextInv s → CamContextInv t) ∧ (CamScheduleInv s → CamScheduleInv t) := by
  obtain ⟨hvalid, hnr, hkm, hsk⟩ := h
  simp [CamContextInv, CamScheduleInv, hvalid, hnr, hkm, hsk]

/-- The reset contexts are empty and not valid (R332). -/
theorem contextInv_reset : AesContextInv State.reset ∧ CamContextInv State.reset := by
  simp [AesContextInv, CamContextInv, State.reset]

/-! ### aes.init -/

/-- The expansion has 4(Nr+1) words (R163). -/
theorem length_keyExpansion (k : List Byte) {nk nr : Nat} (h : nk ≤ 4 * (nr + 1)) :
    (keyExpansion k nk nr).length = 4 * (nr + 1) := by
  rw [keyExpansion, length_expandWords, List.length_map, List.length_range]
  omega

/-- The placed schedule of Nk words of key and Nk + 6 rounds follows the recurrence of R163. -/
theorem aesRecurrence_placeSchedule (k : List Byte) {nk : Nat} (hpos : 0 < nk) (hle : nk ≤ 8) :
    AesRecurrence (placeSchedule (keyExpansion k nk (nk + 6))) (nk + 6) := by
  intro i hlow hhigh
  rw [Nat.add_sub_cancel] at hlow ⊢
  rw [roundKeyWord_placeSchedule _ _ (by omega), roundKeyWord_placeSchedule _ _ (by omega),
    roundKeyWord_placeSchedule _ _ (by omega)]
  exact getD_expandWords_new nk _ _ i (by simpa using hlow) (by simp; omega) hpos (by simp)

/-- The words of the placed schedule from 4(Nr+1) on are 0 (R166). -/
theorem placeSchedule_keyExpansion_beyond (k : List Byte) {nk nr : Nat} (h : nk ≤ 4 * (nr + 1)) (i : Fin 60)
    (hi : 4 * (nr + 1) ≤ i.val) : (placeSchedule (keyExpansion k nk nr))[i] = 0#32 := by
  have hlen := length_keyExpansion k h
  simp [placeSchedule, List.getD_eq_getElem?_getD, List.getElem?_eq_none (hlen.trans_le hi)]

/-- The parameters of a supported key length (R11). -/
theorem aesParams_bounds {n : Word} {nk nr : Nat} (h : aesParams n = some (nk, nr)) :
    nr = nk + 6 ∧ (nk = 4 ∨ nk = 6 ∨ nk = 8) := by
  obtain ⟨-, hp⟩ | ⟨-, hp⟩ | ⟨-, hp⟩ := aesParams_eq_some.1 h <;> obtain ⟨rfl, rfl⟩ := Prod.mk.inj hp <;> decide

/-- The round count that aes.init leaves. -/
theorem aesInitResult_aesNr (s : State) {nk : Nat} (h : nk = 4 ∨ nk = 6 ∨ nk = 8) :
    (aesInitResult s nk (nk + 6)).aesNr.toNat = nk + 6 :=
  Nat.mod_eq_of_lt (by omega)

/-- A successful aes.init leaves a context of 10, 12 or 14 rounds with zeros beyond its schedule (R49). -/
theorem aesContextInv_aesInitResult {s : State} {nk nr : Nat} (h : aesParams s.keylen = some (nk, nr)) :
    AesContextInv (aesInitResult s nk nr) := by
  obtain ⟨rfl, hnk⟩ := aesParams_bounds h
  refine ⟨fun _ => ⟨?_, fun i hi => ?_⟩, nofun⟩
  · obtain rfl | rfl | rfl := hnk
    · exact .inl rfl
    · exact .inr (.inl rfl)
    · exact .inr (.inr rfl)
  · rw [aesInitResult_aesNr s hnk] at hi
    exact placeSchedule_keyExpansion_beyond _ (by omega) i hi

/-- A successful aes.init leaves a schedule that follows the recurrence (R163). -/
theorem aesScheduleInv_aesInitResult {s : State} {nk nr : Nat} (h : aesParams s.keylen = some (nk, nr)) :
    AesScheduleInv (aesInitResult s nk nr) := by
  obtain ⟨rfl, hnk⟩ := aesParams_bounds h
  intro _
  rw [aesInitResult_aesNr s hnk]
  exact aesRecurrence_placeSchedule _ (by omega) (by omega)

/-! ### cam.init -/

/-- The placed subkeys follow their table (R226). -/
theorem subkeysFollowTable_extractSubkeys (km : KeyMaterial) {t : List SubkeyEntry}
    (hp : t.Pairwise fun a b => b.index ≠ a.index ∧ b.index + 1 ≠ a.index ∧ b.index ≠ a.index + 1)
    (hb : ∀ e ∈ t, e.index + 1 < 68) : SubkeysFollowTable km.file (extractSubkeys km t) t := by
  intro e he
  obtain ⟨hfirst, hsecond⟩ := placeSubkeys_hit km t (Vector.replicate 68 0#32) hp hb e he
  rw [quadAt_file, ← rotWin_append, subkey64, extractSubkeys, hfirst, hsecond]

/-- A word of the subkey file is the register that holds it. -/
theorem subkeyWord_eq (sk : Vector Word 68) (i : Fin 68) : subkeyWord sk i.val = sk[i] := by
  simp [subkeyWord, List.getD_eq_getElem?_getD]

/-- A subkey word beyond every entry of the table is 0 (R229). -/
theorem extractSubkeys_beyond (km : KeyMaterial) {t : List SubkeyEntry} {n : Nat} (ht : ∀ e ∈ t, e.index + 1 < n)
    (i : Fin 68) (hi : n ≤ i.val) : (extractSubkeys km t)[i] = 0#32 := by
  have hmiss := placeSubkeys_miss km t (Vector.replicate 68 0#32) i.val fun e he => by
    have := ht e he
    omega
  rw [subkeyWord_eq, subkeyWord_eq] at hmiss
  exact hmiss.trans (Vector.getElem_replicate i.isLt)

/-- Both tables write distinct words of the subkey file, that of 16-byte keys words below 52 only (R144). -/
theorem subkeyTables_distinct :
    (romCamKs1.Pairwise fun a b => b.index ≠ a.index ∧ b.index + 1 ≠ a.index ∧ b.index ≠ a.index + 1) ∧
      (romCamKs2.Pairwise fun a b => b.index ≠ a.index ∧ b.index + 1 ≠ a.index ∧ b.index ≠ a.index + 1) ∧
      (∀ e ∈ romCamKs1, e.index + 1 < 52) ∧ ∀ e ∈ romCamKs2, e.index + 1 < 68 := by decide

/-- The padding of a key reads as zero words (R221). -/
theorem be32_padding (k : List Byte) (m j : Nat) (h : k.length ≤ j) : be32 (k ++ List.replicate m 0#8) j = 0#32 := by
  have hzero (i : Nat) (hi : k.length ≤ i) : (k ++ List.replicate m 0#8).getD i 0 = 0#8 := by
    rw [List.getD_append_right _ _ _ _ hi, List.getD_eq_getElem?_getD, List.getElem?_replicate]
    split <;> rfl
  rw [be32, hzero _ h, hzero _ (by omega), hzero _ (by omega), hzero _ (by omega)]
  rfl

/-- A key of 16 bytes has KR = 0 (R221). -/
theorem loadKeyMaterial_kr (k : List Byte) (h : k.length = 16) : (loadKeyMaterial k).2 = ⟨0#32, 0#32, 0#32, 0#32⟩ := by
  have hpad (j : Nat) (hj : 16 ≤ j) := be32_padding k (64 - k.length) j (h.trans_le hj)
  simp only [loadKeyMaterial, hpad 16 (by decide), hpad 20 (by decide), hpad 24 (by decide), hpad 28 (by decide)]
  simp [h]

/-- KR stands in CAM_KM4 to CAM_KM7 (R42). -/
theorem file_kr_zero {km : KeyMaterial} (h : km.kr = ⟨0#32, 0#32, 0#32, 0#32⟩) (i : Fin 4) :
    km.file[i.val + 4] = 0#32 := by
  obtain ⟨i, hi⟩ := i
  interval_cases i <;> simp [KeyMaterial.file, Quad.words, h]

/-- The parameters of a supported key length (R12). -/
theorem camParams_bounds {n : Word} {nr w : Nat} (h : camParams n = some (nr, w)) :
    (n = 16#32 ∧ nr = 18) ∨ (n ≠ 16#32 ∧ nr = 24) := by
  obtain ⟨rfl, hp⟩ | ⟨rfl, hp⟩ | ⟨rfl, hp⟩ := camParams_eq_some.1 h <;> obtain ⟨rfl, rfl⟩ := Prod.mk.inj hp <;> decide

/-- The key material that a cam.init derives from KEY and KEYLEN (R228). -/
def initMaterial (s : State) : KeyMaterial :=
  let raw := loadKeyMaterial (keyString s.key s.keylen.toNat)
  deriveKeyMaterial raw.1 raw.2

/-- What a successful cam.init leaves in the Camellia context, by its round count. -/
theorem camInitResult_context {s : State} {nr w : Nat} (h : camParams s.keylen = some (nr, w)) :
    (camInitResult s nr).camValid = true ∧ (camInitResult s nr).camKm = (initMaterial s).file ∧
      ((camInitResult s nr).camNr = 18#32 ∧ (initMaterial s).kr = ⟨0#32, 0#32, 0#32, 0#32⟩ ∧
          (camInitResult s nr).camSk = extractSubkeys (initMaterial s) romCamKs1 ∨
        (camInitResult s nr).camNr = 24#32 ∧
          (camInitResult s nr).camSk = extractSubkeys (initMaterial s) romCamKs2) := by
  have hsk : (camInitResult s nr).camSk = extractSubkeys (initMaterial s) (subkeyTable s.keylen.toNat) := rfl
  have hkr : (initMaterial s).kr = (loadKeyMaterial (keyString s.key s.keylen.toNat)).2 := rfl
  refine ⟨rfl, rfl, ?_⟩
  obtain ⟨hn, rfl⟩ | ⟨hn, rfl⟩ := camParams_bounds h
  · have hlen : s.keylen.toNat = 16 := by rw [hn]; rfl
    refine .inl ⟨rfl, ?_, by rw [hsk, hlen]; rfl⟩
    rw [hkr, hlen, loadKeyMaterial_kr _ (length_keyString s.key 16)]
  · have hlen : s.keylen.toNat ≠ 16 := fun h16 => hn (BitVec.eq_of_toNat_eq h16)
    exact .inr ⟨rfl, by rw [hsk, subkeyTable, if_neg hlen]⟩

/-- A successful cam.init leaves a context of 18 or 24 rounds, with zeros from word 52 on for 18 (R50). -/
theorem camContextInv_camInitResult {s : State} {nr w : Nat} (h : camParams s.keylen = some (nr, w)) :
    CamContextInv (camInitResult s nr) := by
  obtain ⟨hvalid, -, ⟨hnr, -, hsk⟩ | ⟨hnr, -⟩⟩ := camInitResult_context h
  · refine ⟨fun _ => ⟨.inl hnr, fun _ i hi => ?_⟩, fun hv => absurd (hvalid.symm.trans hv) (by decide)⟩
    rw [hsk]
    exact extractSubkeys_beyond _ subkeyTables_distinct.2.2.1 i hi
  · refine ⟨fun _ => ⟨.inr hnr, fun h18 => ?_⟩, fun hv => absurd (hvalid.symm.trans hv) (by decide)⟩
    exact absurd (hnr.symm.trans h18) (by decide)

/-- A successful cam.init leaves a schedule derived from its key (R221, R223, R226). -/
theorem camScheduleInv_camInitResult {s : State} {nr w : Nat} (h : camParams s.keylen = some (nr, w)) :
    CamScheduleInv (camInitResult s nr) := by
  obtain ⟨hks1, hks2, hlt1, hlt2⟩ := subkeyTables_distinct
  obtain ⟨-, hkm, ⟨hnr, hkr, hsk⟩ | ⟨hnr, hsk⟩⟩ := camInitResult_context h <;> intro _ <;> rw [hkm, hsk, hnr]
  · exact ⟨materialDerived_file _ _, fun _ => file_kr_zero hkr,
      subkeysFollowTable_extractSubkeys _ hks1 fun e he => (hlt1 e he).trans (by decide)⟩
  · exact ⟨materialDerived_file _ _, nofun, subkeysFollowTable_extractSubkeys _ hks2 hlt2⟩

/-! ### Every step -/

/-- Settles O30: a step leaves each context alone, resets it, or is its own INIT. -/
theorem stepKeepsContextInvariants : Obligations.StepKeepsContextInvariants := by
  rintro s t ⟨haes, hcam⟩ h
  constructor
  · obtain hsame | ⟨-, hreset⟩ | ⟨-, -, nk, nr, hp, rfl⟩ := step_aesContext h
    · exact (aesInv_of_same hsame).1 haes
    · exact (aesInv_of_same hreset).1 contextInv_reset.1
    · exact aesContextInv_aesInitResult hp
  · obtain hsame | ⟨-, hreset⟩ | ⟨-, -, nr, w, hp, rfl⟩ := step_camContext h
    · exact (camInv_of_same hsame).1 hcam
    · exact (camInv_of_same hreset).1 contextInv_reset.2
    · exact camContextInv_camInitResult hp

/-- Settles O31: a step leaves each schedule alone, resets its VALID bit, or is its own INIT. -/
theorem stepKeepsSchedulesWellMade : Obligations.StepKeepsSchedulesWellMade := by
  intro s t _ hs h
  rw [scheduleInv_iff] at hs ⊢
  obtain ⟨haes, hcam⟩ := hs
  constructor
  · obtain hsame | ⟨-, hreset⟩ | ⟨-, -, nk, nr, hp, rfl⟩ := step_aesContext h
    · exact (aesInv_of_same hsame).2 haes
    · exact (aesInv_of_same hreset).2 nofun
    · exact aesScheduleInv_aesInitResult hp
  · obtain hsame | ⟨-, hreset⟩ | ⟨-, -, nr, w, hp, rfl⟩ := step_camContext h
    · exact (camInv_of_same hsame).2 hcam
    · exact (camInv_of_same hreset).2 nofun
    · exact camScheduleInv_camInitResult hp

end Sys2Proof.Machine
end

section
/-! PROOFS. The register window by offsets: which offsets are unmapped (R78), and a host access there, at a read-only
register, at any register read while BUSY is 0 or 1, and outside what R73 supports (R73 to R77). -/

namespace Sys2Proof.Machine

/-! ### Unmapped offsets -/

/-- An aligned offset is unmapped when it is outside every group of the map. -/
theorem regAt_eq_none_iff {off : Nat} (hoff : off % 4 = 0) : regAt off = none ↔ ∀ g ∈ regGroups, g off = none := by
  rw [regAt, if_pos hoff, List.findSome?_eq_none_iff]

/-- Settles O4: the six ranges are what the groups of the map leave of the window. -/
theorem unmappedOffsetsAreTheListedRanges : Obligations.UnmappedOffsetsAreTheListedRanges := by
  intro off hoff hlt
  rw [regAt_eq_none_iff hoff]
  simp only [regGroups, List.forall_mem_cons, List.not_mem_nil, false_imp_iff, implies_true, and_true,
    regInGroup_eq_none]
  omega

/-! ### Supported and unsupported accesses -/

/-- An access is well formed unless it is of another width, misaligned or outside the window (R73). -/
theorem accessWellFormed_eq_false_iff {width off : Nat} :
    accessWellFormed width off = false ↔ width ≠ 32 ∨ off % 4 ≠ 0 ∨ 0x3000 ≤ off := by
  refine ⟨accessWellFormed_eq_false, fun h => ?_⟩
  simp only [accessWellFormed, Bool.and_eq_false_iff, beq_eq_false_iff_ne, decide_eq_false_iff_not]
  omega

/-- A 32-bit access at a multiple of 4 inside the window is well formed (R73). -/
theorem accessWellFormed_of_aligned {off : Nat} (hoff : off % 4 = 0) (hlt : off < 0x3000) :
    accessWellFormed 32 off = true := by
  simp [accessWellFormed, hoff, hlt]

/-- The fields that are the model's own are behind no register and no flag. -/
theorem sameRegisters_withModelFields (s : State) (lat n : Nat) (l : List HostOp) (o : List Word) :
    SameRegisters s (s.withModelFields lat n l o) :=
  ⟨regValue_withModelFields s lat n l o, rfl, rfl, rfl, rfl, rfl⟩

/-- A recorded fault is behind no register and no flag. -/
theorem sameRegisters_recordFault (f : Fault) (s : State) : SameRegisters s (recordFault f s) :=
  sameRegisters_of_fields (by simp)

/-- Where the outside moves next, its operation meets a state that differs in the countdown and the inputs alone. -/
theorem step_of_hostTurn_withModelFields {s : State} {op : HostOp} {rest : List HostOp} (h : HostTurn s op rest) :
    step s = .next (performOp (s.withModelFields (tickLatency s).latLeft s.draws rest s.observed) op) := by
  rw [step_of_hostTurn h, tickLatency_eq]
  rfl

/-- Settles O9: the access is not well formed, so the step records its fault and does nothing else. -/
theorem unsupportedAccessRecordsItsFault : Obligations.UnsupportedAccessRecordsItsFault := by
  intro s rest width off v hturn hbad
  have hw := accessWellFormed_eq_false_iff.2 hbad
  have hstep : step s = .next (recordFault .unsupportedAccess
      (s.withModelFields (tickLatency s).latLeft s.draws rest s.observed)) := by
    obtain hread | hwrite := hturn
    · simp [step_of_hostTurn_withModelFields hread, performOp, hostRead, hw]
    · simp [step_of_hostTurn_withModelFields hwrite, performOp, hostWrite, hw]
  exact ⟨_, hstep, rfl, sameRegisters_recordFault .unsupportedAccess _, rfl, rfl, rfl⟩

/-! ### Reads -/

/-- What a register reads as while BUSY = 1 depends on no field that is the model's own, but for the draw. -/
theorem busyRegValue_withModelFields (d : Word) (s : State) (lat n : Nat) (l : List HostOp) (o : List Word) (r : Reg) :
    busyRegValue d (s.withModelFields lat n l o) r = busyRegValue d s r := by
  cases r <;> rfl

/-- A read neither looks at the countdown, the inputs and the observations nor changes them. -/
theorem readReg_withModelFields (s : State) (lat : Nat) (l : List HostOp) (o : List Word) (off : Nat) :
    readReg (s.withModelFields lat s.draws l o) off =
      ((readReg s off).1, s.withModelFields lat (readReg s off).2.draws l o) := by
  unfold readReg
  cases regAt off with
  | none => rfl
  | some r =>
    cases hd : s.busy && r.drawnWhileBusy with
    | false => simp [hd, regValue_withModelFields]
    | true =>
      simp only [withModelFields_busy, withModelFields_draws, hd, if_true, busyRegValue_withModelFields]
      rfl

/-- A supported read observes what `readReg` returns and moves the count of draws as `readReg` does; no register and no
fault mark changes. -/
theorem step_read {s : State} {off : Nat} {rest : List HostOp} (h : HostTurn s (.read 32 off) rest)
    (hw : accessWellFormed 32 off = true) :
    ∃ t, step s = .next t ∧ t.observed = s.observed ++ [(readReg s off).1] ∧ SameRegisters s t ∧
      t.faults = s.faults ∧ t.draws = (readReg s off).2.draws ∧ t.inputs = rest := by
  have hstep : step s = .next (s.withModelFields (tickLatency s).latLeft (readReg s off).2.draws rest
      (s.observed ++ [(readReg s off).1])) := by
    rw [step_of_hostTurn_withModelFields h]
    simp only [performOp, hostRead, hw, if_true, readReg_withModelFields]
    rfl
  exact ⟨_, hstep, rfl, sameRegisters_withModelFields s _ _ _ _, rfl, rfl, rfl⟩

/-- A supported read that takes no draw observes its value and changes nothing. -/
theorem step_read_undrawn {s : State} {off : Nat} {rest : List HostOp} {v : Word} (h : HostTurn s (.read 32 off) rest)
    (hw : accessWellFormed 32 off = true) (hv : readReg s off = (v, s)) :
    ∃ t, step s = .next t ∧ t.observed = s.observed ++ [v] ∧ SameRegisters s t ∧ t.faults = s.faults ∧
      t.draws = s.draws ∧ t.inputs = rest := by
  simpa only [hv] using step_read h hw

/-- An unmapped offset reads 0 and takes no draw (R74). -/
theorem readReg_unmapped {s : State} {off : Nat} (h : regAt off = none) : readReg s off = (0#32, s) := by
  simp [readReg, h]

/-- A read while BUSY = 1 of a register whose value is then free takes a draw (R77). -/
theorem readReg_offset_drawn {s : State} {r : Reg} (hb : s.busy = true) (hr : r.drawnWhileBusy = true) :
    readReg s r.offset = (busyRegValue (Config.draw s.draws) s r, { s with draws := s.draws + 1 }) := by
  simp [readReg, hb, hr]

/-- Settles O10: while BUSY = 0 no read takes a draw. -/
theorem readsReturnTheRegisterAndChangeNothing : Obligations.ReadsReturnTheRegisterAndChangeNothing := by
  intro s rest r h hb
  exact step_read_undrawn h (accessWellFormed_offset r) (readReg_offset (by simp [hb]))

/-- STATUS read while BUSY = 1: bit 0 is set and every other bit is the draw's (R77). -/
theorem getLsbD_busyStatusWord (d : Word) :
    (busyStatusWord d).getLsbD 0 = true ∧ ∀ b, 1 ≤ b → (busyStatusWord d).getLsbD b = d.getLsbD b := by
  refine ⟨by simp [busyStatusWord], fun b hb => ?_⟩
  have hne : b ≠ 0 := by omega
  simp [busyStatusWord, BitVec.getLsbD_one, hne]

/-- The registers that hold the engine's results: DOUT and the two contexts' counts and files (R38 to R43). -/
def Reg.IsResult (r : Reg) : Prop :=
  r = .aesNr ∨ r = .camNr ∨ (∃ k, r = .dout k) ∨ (∃ i, r = .aesRk i) ∨ (∃ i, r = .camKm i) ∨ ∃ i, r = .camSk i

/-- While BUSY = 1 a result register reads as a draw (R77). -/
theorem readReg_result_busy {s : State} {r : Reg} (hb : s.busy = true) (hr : r.IsResult) :
    readReg s r.offset = (Config.draw s.draws, { s with draws := s.draws + 1 }) := by
  obtain rfl | rfl | ⟨k, rfl⟩ | ⟨i, rfl⟩ | ⟨i, rfl⟩ | ⟨i, rfl⟩ := hr <;> exact readReg_offset_drawn hb rfl

/-- A ROM entry takes no draw (R77). -/
theorem drawnWhileBusy_of_isRom {r : Reg} (hr : r.isRom = true) : r.drawnWhileBusy = false := by
  cases r <;> simp_all [Reg.isRom, Reg.drawnWhileBusy]

/-- The registers that hold no result and no flag read as usual while BUSY = 1 (R77). -/
theorem drawnWhileBusy_eq_false {r : Reg}
    (hr : r = .keylen ∨ r = .blocksize ∨ r = .cmd ∨ r.isRom = true ∨ (∃ k, r = .key k) ∨ ∃ k, r = .din k) :
    r.drawnWhileBusy = false := by
  obtain rfl | rfl | rfl | hrom | ⟨k, rfl⟩ | ⟨k, rfl⟩ := hr
  case inr.inr.inr.inl => exact drawnWhileBusy_of_isRom hrom
  all_goals rfl

/-- Settles O11: the three classes of registers are STATUS, the results, and those whose read takes no draw. -/
theorem readsWhileBusyAreDraws : Obligations.ReadsWhileBusyAreDraws := by
  constructor
  · intro s rest r h hb
    obtain ⟨t, hstep, hobs, hregs, hfaults, hdraws, hinputs⟩ := step_read h (accessWellFormed_offset r)
    refine ⟨t, (readReg s r.offset).1, hstep, hobs, hregs, hfaults, hinputs, ?_, fun hr => ?_, fun hr => ?_⟩
    · rintro rfl
      obtain ⟨hbusy, hdrawn⟩ := getLsbD_busyStatusWord (Config.draw s.draws)
      rw [hdraws, readReg_offset_drawn hb rfl]
      exact ⟨hbusy, hdrawn, rfl⟩
    · rw [hdraws, readReg_result_busy hb hr]
      exact ⟨rfl, rfl⟩
    · rw [hdraws, readReg_offset (by simp [drawnWhileBusy_eq_false hr])]
      exact ⟨rfl, rfl⟩
  · intro s rest off h _ hoff hlt hnone
    exact step_read_undrawn h (accessWellFormed_of_aligned hoff hlt) (readReg_unmapped hnone)

/-! ### Ignored writes -/

/-- A write to an unmapped offset or to a read-only register is ignored at any time (R74). -/
theorem writeReg_ignored {off : Nat} (h : ∀ r, regAt off = some r → r.hostWritable = false) (s : State) (v : Word) :
    writeReg s off v = s := by
  obtain hs | ⟨r, hat, hw, -⟩ := writeReg_cases s off v
  · exact hs
  · simp [h r hat] at hw

/-- Settles O5: neither an unmapped offset nor CMD takes a draw, and `writeReg` ignores all but the writable registers. -/
theorem unmappedAndReadOnlyOffsetsIgnoreWrites : Obligations.UnmappedAndReadOnlyOffsetsIgnoreWrites := by
  intro s rest off hoff hlt
  have hw := accessWellFormed_of_aligned hoff hlt
  refine ⟨fun h hat => ?_, fun v h hat => ?_⟩
  · have hread : readReg s off = (0#32, s) := by
      obtain hnone | hcmd := hat
      · exact readReg_unmapped hnone
      · rw [offset_of_regAt hcmd]
        exact readReg_offset (by simp [Reg.drawnWhileBusy])
    exact step_read_undrawn h hw hread
  · have hignored (r : Reg) (hr : regAt off = some r) : r.hostWritable = false := by
      obtain hnone | ⟨r', hr', hcmd, hkeylen, hkey, hdin⟩ := hat
      · simp [hnone] at hr
      · obtain rfl : r' = r := Option.some.inj (hr'.symm.trans hr)
        rw [Bool.eq_false_iff, ne_eq, hostWritable_iff]
        simp [hcmd, hkeylen, hkey, hdin]
    have hstep : step s = .next (s.withModelFields (tickLatency s).latLeft s.draws rest s.observed) := by
      simp only [step_of_hostTurn_withModelFields h, performOp, hostWrite, hw, if_true, writeReg_ignored hignored]
    exact ⟨_, hstep, sameRegisters_withModelFields s _ _ _ _, rfl, rfl, rfl, rfl⟩

end Sys2Proof.Machine
end

section
/-! PROOFS. The two encodings (R100 to R102, R109): a command word and a transaction word each decode to what they
are the word of, and no other word does. -/

namespace Sys2Proof

/-! ### Command words -/

/-- The word of each command decodes to it (R102). -/
theorem decode_encode (i : Instr) : decode (encode i) = .ok i := by cases i <;> rfl

/-- A command's word is one of the six legal ones (R106). -/
theorem encode_legal (i : Instr) : Laws.LegalWord.Statement i := by
  cases i
  · exact Laws.LegalWord.aesInit
  · exact Laws.LegalWord.aesEnc
  · exact Laws.LegalWord.aesDec
  · exact Laws.LegalWord.camInit
  · exact Laws.LegalWord.camEnc
  · exact Laws.LegalWord.camDec

/-- Settles O20: a command's word decodes to it, and only its word does. -/
theorem decodeAndEncodeAgree : Obligations.DecodeAndEncodeAgree := by
  intro i v _
  constructor
  · exact Machine.eq_encode_of_decode
  · rintro rfl
    exact decode_encode i

/-- The command that bit 2 and the low two bits of a legal word select (R100). -/
theorem decode_of_legal {v : Word} (hle : v.toNat ≤ 7) (hop : v.toNat % 4 ≠ 0) :
    decode v = .ok
      (if v.toNat / 4 = 0 then
        (if v.toNat % 4 = 1 then .aesInit else if v.toNat % 4 = 2 then .aesEnc else .aesDec)
      else (if v.toNat % 4 = 1 then .camInit else if v.toNat % 4 = 2 then .camEnc else .camDec)) := by
  have hword : v = 1#32 ∨ v = 2#32 ∨ v = 3#32 ∨ v = 5#32 ∨ v = 6#32 ∨ v = 7#32 := by
    simp only [← BitVec.toNat_inj, BitVec.toNat_ofNat]
    omega
  obtain rfl | rfl | rfl | rfl | rfl | rfl := hword <;> rfl

/-- A word is ILLEGAL exactly when it is above 7 or its OP is 0b00 (R101, R105): any other is a command's. -/
theorem decode_eq_error_iff (v : Word) : (∃ e, decode v = .error e) ↔ 7 < v.toNat ∨ v.toNat % 4 = 0 := by
  constructor
  · rintro ⟨e, he⟩
    by_contra hlegal
    obtain ⟨hle, hop⟩ : v.toNat ≤ 7 ∧ v.toNat % 4 ≠ 0 := by omega
    cases he.symm.trans (decode_of_legal hle hop)
  · intro hbad
    cases hd : decode v with
    | error e => exact ⟨e, rfl⟩
    | ok i =>
      obtain ⟨-, hle, hop⟩ := encode_legal i
      rw [Machine.eq_encode_of_decode hd] at hbad
      omega

/-- Settles O19: the illegal words are those above 7 and those with OP = 0b00, and the others are six. -/
theorem decodeFollowsTheFields : Obligations.DecodeFollowsTheFields :=
  fun v => ⟨decode_eq_error_iff v, decode_of_legal⟩

/-! ### Transaction words -/

/-- The layout of R109: DIR [63], the bits [62:46], OFF [45:32], DATA [31:0]. -/
def transactionWord (dir : BitVec 1) (zero : BitVec 17) (off : BitVec 14) (data : BitVec 32) : BitVec 64 :=
  dir ++ zero ++ off ++ data

/-- A read's word (R109). -/
theorem encodeTransaction_rd (off : BitVec 14) : encodeTransaction (.rd off) = transactionWord 0#1 0#17 off 0#32 := rfl

/-- A write's word (R109). -/
theorem encodeTransaction_wr (off : BitVec 14) (data : Word) :
    encodeTransaction (.wr off data) = transactionWord 1#1 0#17 off data := rfl

/-- Each field of the layout is read back at its place. -/
theorem transactionWord_fields (dir : BitVec 1) (zero : BitVec 17) (off : BitVec 14) (data : BitVec 32) :
    (transactionWord dir zero off data).getLsbD 63 = dir.getLsbD 0 ∧
      (transactionWord dir zero off data).extractLsb' 46 17 = zero ∧
      (transactionWord dir zero off data).extractLsb' 32 14 = off ∧
      (transactionWord dir zero off data).extractLsb' 0 32 = data := by
  unfold transactionWord
  refine ⟨?_, ?_, ?_, BitVec.extractLsb'_append_eq_right⟩
  · simp only [BitVec.getLsbD_append]
    rfl
  · rw [BitVec.extractLsb'_append_eq_of_le (by decide), BitVec.extractLsb'_append_eq_of_le (by decide)]
    exact BitVec.extractLsb'_append_eq_right
  · rw [BitVec.extractLsb'_append_eq_of_le (by decide)]
    exact BitVec.extractLsb'_append_eq_right

/-- A 64-bit word is its fields put together. -/
theorem transactionWord_of_fields (w : BitVec 64) :
    transactionWord (BitVec.ofBool (w.getLsbD 63)) (w.extractLsb' 46 17) (w.extractLsb' 32 14) (w.extractLsb' 0 32) =
      w := by
  have hdir : BitVec.ofBool (w.getLsbD 63) = w.extractLsb' 63 1 := by
    ext i
    simp [show i = 0 by omega]
  have htop : w.extractLsb' 63 1 ++ w.extractLsb' 46 17 = w.extractLsb' 46 18 :=
    BitVec.extractLsb'_append_extractLsb'_eq_extractLsb' rfl
  have hhigh : w.extractLsb' 46 18 ++ w.extractLsb' 32 14 = w.extractLsb' 32 32 :=
    BitVec.extractLsb'_append_extractLsb'_eq_extractLsb' rfl
  rw [transactionWord, hdir, htop, hhigh]
  exact BitVec.extractLsb'_append_extractLsb'

/-- The word of each transaction decodes to it. -/
theorem decodeTransaction_encodeTransaction (t : Machine.Transaction) :
    decodeTransaction (encodeTransaction t) = .ok t := by
  cases t with
  | rd off =>
    obtain ⟨hdir, hres, hoff, hdata⟩ := transactionWord_fields 0#1 0#17 off 0#32
    simp [decodeTransaction, encodeTransaction_rd, hdir, hres, hoff, hdata, -BitVec.getLsbD_eq_getElem]
  | wr off data =>
    obtain ⟨hdir, hres, hoff, hdata⟩ := transactionWord_fields 1#1 0#17 off data
    simp [decodeTransaction, encodeTransaction_wr, hdir, hres, hoff, hdata, -BitVec.getLsbD_eq_getElem]

/-- All that a word which decodes can be: its zero bits are clear, and it is a write, or a read with no data. -/
theorem decodeTransaction_eq_ok {w : BitVec 64} {t : Machine.Transaction} (h : decodeTransaction w = .ok t) :
    w.extractLsb' 46 17 = 0#17 ∧
      ((w.getLsbD 63 = true ∧ t = .wr (w.extractLsb' 32 14) (w.extractLsb' 0 32)) ∨
        (w.getLsbD 63 = false ∧ w.extractLsb' 0 32 = 0#32 ∧ t = .rd (w.extractLsb' 32 14))) := by
  unfold decodeTransaction at h
  split at h
  · cases h
  · rename_i hres
    refine ⟨by simpa using hres, ?_⟩
    split at h
    · rename_i hdir
      exact .inl ⟨hdir, (Except.ok.inj h).symm⟩
    · rename_i hdir
      split at h
      · cases h
      · rename_i hdata
        exact .inr ⟨Bool.eq_false_iff.2 hdir, by simpa using hdata, (Except.ok.inj h).symm⟩

/-- Only a transaction's own word decodes to it. -/
theorem eq_encodeTransaction_of_decode {w : BitVec 64} {t : Machine.Transaction} (h : decodeTransaction w = .ok t) :
    w = encodeTransaction t := by
  have hw := transactionWord_of_fields w
  obtain ⟨hres, ⟨hdir, rfl⟩ | ⟨hdir, hdata, rfl⟩⟩ := decodeTransaction_eq_ok h
  · rw [hdir, hres] at hw
    exact hw.symm
  · rw [hdir, hres, hdata] at hw
    exact hw.symm

/-- Settles O21: a transaction's word decodes to it, and only its word does. -/
theorem transactionWordsRoundTrip : Obligations.TransactionWordsRoundTrip := by
  intro t w
  constructor
  · exact eq_encodeTransaction_of_decode
  · rintro rfl
    exact decodeTransaction_encodeTransaction t

/-- Settles O22: three of the command words are `encode`'s, the two transaction words `encodeTransaction`'s. -/
theorem writtenOutWordsDecode : Obligations.WrittenOutWordsDecode :=
  ⟨decode_encode .aesInit, decode_encode .aesDec, decode_encode .camEnc, rfl, rfl,
    decodeTransaction_encodeTransaction (.wr 0x008#14 0x10#32),
    decodeTransaction_encodeTransaction (.rd 0x004#14), rfl⟩

end Sys2Proof
end

section
/-! PROOFS. `wait` (R112): while BUSY = 1 each turn observes STATUS and stands in front again, so the latency runs out,
the command completes with the code of R305, and one more read of STATUS ends the wait; before that, what a step leaves
of the operands (R103). -/

namespace Sys2Proof.Machine

/-! ### The operands -/

/-- Settles O34: of all that a step can do, only a reset and a store while BUSY = 0 write an operand. -/
theorem operandsChangeOnlyByHostWriteOrReset : Obligations.OperandsChangeOnlyByHostWriteOrReset := by
  intro s t h
  obtain ⟨rest, hi, -⟩ | ⟨-, -, hc⟩ | ⟨hr, -, -, rfl⟩ := step_cases h
  · exact .inr (.inl ((resetNext_iff s).2 ⟨rest, hi⟩))
  · exact .inl (completionStep_frame hc).2.1
  · obtain ⟨lat, n, l, o, hs | ⟨hs, -⟩ | ⟨off, v, rest, r, hin, hat, hw, ⟨-, hs⟩ | ⟨hb, hs⟩⟩⟩ := hostStep_cases hr <;>
      rw [hs]
    · exact .inl ⟨rfl, rfl, rfl⟩
    · exact .inl ⟨rfl, rfl, rfl⟩
    · exact .inl ⟨rfl, rfl, rfl⟩
    · obtain rfl | hop : r = .cmd ∨ r.IsOperand := (hostWritable_iff r).1 hw
      · exact .inl ⟨rfl, rfl, rfl⟩
      · exact .inr (.inr ⟨hb, off, v, rest, r, hin, hat, hop⟩)

/-! ### The code of a completion -/

/-- An INIT reports whether KEYLEN is supported (R301, R305). -/
theorem completionCode_init {i : Instr} (hi : i = .aesInit ∨ i = .camInit) {s : State} (hp : s.pending = encode i) :
    completionCode s = if SupportedLength s.keylen then .noError else .invalidKeyLength := by
  obtain rfl | rfl := hi <;> simp [completionCode, hp, encode]

/-- An AES block command reports whether the AES context is valid (R302, R305). -/
theorem completionCode_aesBlock {i : Instr} (hi : i = .aesEnc ∨ i = .aesDec) {s : State} (hp : s.pending = encode i) :
    completionCode s = if s.aesValid then .noError else .notInitialized := by
  obtain rfl | rfl := hi <;> simp [completionCode, hp, encode]

/-- A Camellia block command reports whether the Camellia context is valid (R302, R305). -/
theorem completionCode_camBlock {i : Instr} (hi : i = .camEnc ∨ i = .camDec) {s : State} (hp : s.pending = encode i) :
    completionCode s = if s.camValid then .noError else .notInitialized := by
  obtain rfl | rfl := hi <;> simp [completionCode, hp, encode]

/-- A word that decodes to no command is reported as ILLEGAL_COMMAND (R303, R305). -/
theorem completionCode_illegal {s : State} (h : ∃ e, decode s.pending = .error e) :
    completionCode s = .illegalCommand := by
  refine if_pos ?_
  simp only [ne_eq, ← BitVec.toNat_inj, BitVec.extractLsb'_toNat, BitVec.toNat_ofNat, Nat.shiftRight_eq_div_pow]
  have := (decode_eq_error_iff s.pending).1 h
  omega

/-- A command completes with the code R305 gives its word. -/
theorem exec_errcode {i : Instr} {s : State} (hp : s.pending = encode i) :
    ∃ t, exec i s = .next t ∧ t.errcode = completionCode s := by
  cases i with
  | aesInit =>
    rw [completionCode_init (.inl rfl) hp]
    cases hn : aesParams s.keylen with
    | none =>
      rw [if_neg ((aesParams_eq_none _).1 hn)]
      simp [exec, execAesInit, hn]
    | some p =>
      rw [if_pos (supportedLength_of_aesParams hn)]
      simp [exec, execAesInit, hn]
  | camInit =>
    rw [completionCode_init (.inr rfl) hp]
    cases hn : camParams s.keylen with
    | none =>
      rw [if_neg ((camParams_eq_none _).1 hn)]
      simp [exec, execCamInit, hn]
    | some p =>
      rw [if_pos (supportedLength_of_camParams hn)]
      simp [exec, execCamInit, hn]
  | aesEnc => cases hv : s.aesValid <;> simp [exec, execAesEnc, completionCode_aesBlock (.inl rfl) hp, hv]
  | aesDec => cases hv : s.aesValid <;> simp [exec, execAesDec, completionCode_aesBlock (.inr rfl) hp, hv]
  | camEnc => cases hv : s.camValid <;> simp [exec, execCamEnc, completionCode_camBlock (.inl rfl) hp, hv]
  | camDec => cases hv : s.camValid <;> simp [exec, execCamDec, completionCode_camBlock (.inr rfl) hp, hv]

/-- Every completion answers a next state, with the code R305 gives PENDING. -/
theorem completionStep_errcode (s : State) : ∃ t, completionStep s = .next t ∧ t.errcode = completionCode s := by
  obtain ⟨i, hdec, hexec⟩ | ⟨hdec, herr⟩ := completionStep_cases s
  · rw [hexec]
    exact exec_errcode (eq_encode_of_decode hdec)
  · exact ⟨_, herr, (completionCode_illegal hdec).symm⟩

/-! ### One turn of `wait` -/

/-- While BUSY = 0 a turn of `wait` observes STATUS and is the last. -/
theorem hostWait_idle {s : State} (hb : s.busy = false) :
    hostWait s = s.withModelFields s.latLeft s.draws s.inputs (s.observed ++ [regValue s .status]) := by
  have hread := readReg_offset (s := s) (r := .status) (by simp [hb])
  have hbit : (regValue s .status).getLsbD 0 = false := (packStatus_fields ..).1.trans hb
  simp only [hostWait, hread, hbit]
  rfl

/-- While BUSY = 1 a turn of `wait` observes a STATUS word with BUSY set and stands in front again. -/
theorem hostWait_busy {s : State} (hb : s.busy = true) :
    ∃ v, hostWait s = s.withModelFields s.latLeft (s.draws + 1) (.wait :: s.inputs) (s.observed ++ [v]) := by
  have hread := readReg_offset_drawn (r := .status) hb rfl
  have hbit := (getLsbD_busyStatusWord (Config.draw s.draws)).1
  refine ⟨busyStatusWord (Config.draw s.draws), ?_⟩
  simp only [hostWait, hread, busyRegValue, hbit, if_true]
  rfl

/-- With BUSY = 0, the step that does `wait` ends it: it observes STATUS and changes no register. -/
theorem step_wait_idle {s : State} {rest : List HostOp} (hi : s.inputs = .wait :: rest) (hf : s.FaultFree)
    (hb : s.busy = false) : ∃ t, step s = .next t ∧ t.inputs = rest ∧ t.busy = false ∧ t.FaultFree ∧
      t.observed.getLast? = some (regValue t .status) ∧ t.errcode = s.errcode ∧ SameRegisters s t := by
  have hwait := hostWait_idle (s := s.withModelFields s.latLeft s.draws rest s.observed) hb
  have hstep := step_of_hostTurn_withModelFields ⟨hi, hf, engineReady_idle hb⟩
  rw [tickLatency_idle hb, performOp, hwait] at hstep
  exact ⟨_, hstep, rfl, hb, hf, List.getLast?_concat .., rfl, sameRegisters_withModelFields s _ _ _ _⟩

/-- With BUSY = 1 and the completion not due, the step that does `wait` counts the latency down and leaves it to do. -/
theorem step_wait_busy {s : State} {rest : List HostOp} (h : HostTurn s .wait rest) (hb : s.busy = true) :
    ∃ n o, step s = .next (s.withModelFields (s.latLeft - 1) n (.wait :: rest) o) := by
  obtain ⟨v, hwait⟩ := hostWait_busy
    (s := s.withModelFields (tickLatency s).latLeft s.draws rest s.observed) hb
  have hstep := step_of_hostTurn_withModelFields h
  rw [performOp, hwait, tickLatency_latLeft, if_pos hb] at hstep
  exact ⟨_, _, hstep⟩

/-! ### The whole wait -/

/-- A run of `k + m` steps is one of `k` steps and then one of `m`. -/
theorem run_add_of_run {s t : State} {k : Nat} (h : run k s = .next t) (m : Nat) : run (k + m) s = run m t := by
  induction k generalizing s with
  | zero =>
    obtain rfl : s = t := Host.Outcome.next.inj h
    rw [Nat.zero_add]
  | succ k ih =>
    rw [Nat.succ_add]
    simp only [run] at h ⊢
    split at h
    · exact ih h
    · cases h
    · cases h

/-- While a host waits, a run within the remaining latency reaches the completion step with the wait still to do, and
changes only the fields that are the model's own. -/
theorem run_wait_reaches_completion {s : State} {rest : List HostOp} (hi : s.inputs = .wait :: rest)
    (hf : s.FaultFree) (hb : s.busy = true) :
    ∃ k lat n o, k ≤ s.latLeft ∧ run k s = .next (s.withModelFields lat n (.wait :: rest) o) ∧
      engineNext (s.withModelFields lat n (.wait :: rest) o) = true := by
  cases he : engineReady s with
  | true =>
    have hsame : s = s.withModelFields s.latLeft s.draws (.wait :: rest) s.observed := by
      rw [← hi]
      rfl
    have hreset : resetNext s = false := by simp [resetNext, hi]
    have hnext : engineNext s = true := by simp [engineNext, he, hreset, hf]
    exact ⟨0, s.latLeft, s.draws, s.observed, Nat.zero_le _, congrArg _ hsame, hsame ▸ hnext⟩
  | false =>
    have hlat : 1 < s.latLeft := by simpa [engineReady, hb] using he
    obtain ⟨n, o, hstep⟩ := step_wait_busy ⟨hi, hf, he⟩ hb
    obtain ⟨k, lat, n', o', hk, hrun, hnext⟩ := run_wait_reaches_completion
      (s := s.withModelFields (s.latLeft - 1) n (.wait :: rest) o) (withModelFields_inputs ..) hf hb
    refine ⟨k + 1, lat, n', o', ?_, (run_succ_of_step hstep k).trans hrun, hnext⟩
    rw [withModelFields_latLeft] at hk
    omega
termination_by s.latLeft
decreasing_by simp only [withModelFields_latLeft]; omega

/-- Settles O37: with BUSY = 1 the wait reaches the completion step within the latency, the completion clears BUSY and
sets the code, and one read more ends the wait; with BUSY = 0 that read is all of it. -/
theorem waitEndsWithTheOutcome : Obligations.WaitEndsWithTheOutcome := by
  intro s rest hi hf
  cases hb : s.busy with
  | false =>
    obtain ⟨t, hstep, hti, htb, htf, hlast, -, hsame⟩ := step_wait_idle hi hf hb
    exact ⟨1, t, by omega, run_succ_of_step hstep 0, hti, htb, htf, hlast, nofun, fun _ => hsame⟩
  | true =>
    obtain ⟨k, lat, n, o, hk, hrun, hnext⟩ := run_wait_reaches_completion hi hf hb
    obtain ⟨u, hcomp, hcode⟩ := completionStep_errcode (s.withModelFields lat n (.wait :: rest) o)
    obtain ⟨hub, -, -, hfaults, -, -, hinputs, -⟩ := completionStep_frame hcomp
    have huf : u.FaultFree := by rw [State.FaultFree, hfaults]; exact hf
    obtain ⟨t, hstep, hti, htb, htf, hlast, herr, -⟩ := step_wait_idle hinputs huf hub
    have hrun' : run (k + 2) s = .next t := by
      rw [run_add_of_run hrun, run_succ_of_step ((step_of_engineNext hnext).trans hcomp), run_succ_of_step hstep]
      rfl
    exact ⟨k + 2, t, by omega, hrun', hti, htb, htf, hlast, fun _ => herr.trans hcode, nofun⟩

end Sys2Proof.Machine
end

section
/-! PROOFS. The shared tables (R132 to R144): each byte table is the function its rule defines, and the two subkey
tables write every word of their sequence with shifts that a rotation window can take. A table's contents are the one
finite fact about it, read off entry by entry; the rest follows from these lemmas. -/

namespace Sys2Proof.Machine

/-! ### The multiplier table -/

/-- The table's entries are those of the formula (R132). -/
theorem romGfMul2_eq_mul2 : ∀ b : Byte, romGfMul2 b = mul2 b := by decide +kernel

/-- Of the coefficients of 0x02 only that of x is set, so the field's product is one doubling (R19). -/
theorem gfMul_two (b : Byte) : gfMul b 0x02#8 = mul2 b := by simp [gfMul, gfMulLow]

/-- Settles O14: the table is `mul2`, and `mul2` is the product by 0x02. -/
theorem gfMul2TableIsMultiplicationByX : Obligations.GfMul2TableIsMultiplicationByX := fun b =>
  ⟨romGfMul2_eq_mul2 b, (romGfMul2_eq_mul2 b).trans (gfMul_two b).symm⟩

/-! ### The AES boxes -/

/-- The affine map that undoes A of R133. -/
def sboxAffineInv (b : Byte) : Byte := b.rotateLeft 1 ^^^ b.rotateLeft 3 ^^^ b.rotateLeft 6 ^^^ 0x05#8

/-- A undoes `sboxAffineInv`. -/
theorem sboxAffine_sboxAffineInv : ∀ b : Byte, sboxAffine (sboxAffineInv b) = b := by decide +kernel

/-- What the affine map was applied to in the entry of a non-zero x is the inverse of x (R133). -/
theorem gfMul_sboxAffineInv_romAesSbox :
    ∀ x : Byte, x ≠ 0x00#8 → gfMul x (sboxAffineInv (romAesSbox x)) = 0x01#8 := by decide +kernel

/-- Settles O15: the y of x is its entry with the affine map undone, which is the inverse of x. -/
theorem aesSboxIsTheAffineImageOfTheInverse : Obligations.AesSboxIsTheAffineImageOfTheInverse := by
  constructor
  · rfl
  · intro x hx
    exact ⟨sboxAffineInv (romAesSbox x), gfMul_sboxAffineInv_romAesSbox x hx, (sboxAffine_sboxAffineInv _).symm⟩

/-- The inverse S-box undoes the S-box (R134). -/
@[simp] theorem romAesInvSbox_romAesSbox : ∀ x : Byte, romAesInvSbox (romAesSbox x) = x := by decide +kernel

/-- The S-box undoes the inverse S-box, so it is a permutation (R134). -/
@[simp] theorem romAesSbox_romAesInvSbox : ∀ y : Byte, romAesSbox (romAesInvSbox y) = y := by decide +kernel

/-- Settles O16: two boxes that undo each other both ways have each other's entries. -/
theorem aesInverseSboxInvertsTheSbox : Obligations.AesInverseSboxInvertsTheSbox := by
  intro x y
  constructor
  · rintro rfl
    exact romAesInvSbox_romAesSbox x
  · rintro rfl
    exact romAesSbox_romAesInvSbox y

/-! ### The Camellia boxes -/

/-- Box 2 rotates box 1's output left by 1 (R137). -/
theorem romCamSbox2_eq : ∀ x : Byte, romCamSbox2 x = (romCamSbox1 x).rotateLeft 1 := by decide +kernel

/-- Box 3 rotates box 1's output left by 7 (R138). -/
theorem romCamSbox3_eq : ∀ x : Byte, romCamSbox3 x = (romCamSbox1 x).rotateLeft 7 := by decide +kernel

/-- Box 4 rotates box 1's input left by 1 (R139). -/
theorem romCamSbox4_eq : ∀ x : Byte, romCamSbox4 x = romCamSbox1 (x.rotateLeft 1) := by decide +kernel

/-- Settles O17: the three printed boxes, one by one. -/
theorem camelliaBoxesAreRotationsOfBoxOne : Obligations.CamelliaBoxesAreRotationsOfBoxOne := fun x =>
  ⟨romCamSbox2_eq x, romCamSbox3_eq x, romCamSbox4_eq x⟩

/-! ### The subkey tables -/

/-- A rotation within the 128 bits of a quadruple leaves the total shift in reach of a window, since a half-selector
adds at most 64 (R141, R225). -/
theorem SubkeyEntry.shift_lt {e : SubkeyEntry} (h : e.rot < 128) : e.shift < 192 := by
  have hhalf : e.half.offset ≤ 64 := by cases e.half <;> decide
  exact Nat.add_lt_add_of_lt_of_le h hhalf

/-- The entries for 16-byte keys rotate KL or KA, by less than 128 (R142). -/
theorem romCamKs1_reads : ∀ e ∈ romCamKs1, e.rot < 128 ∧ (e.quad = .kl ∨ e.quad = .ka) := by decide

/-- The entries for 24- and 32-byte keys rotate by less than 128 (R143). -/
theorem romCamKs2_rot_lt : ∀ e ∈ romCamKs2, e.rot < 128 := by decide

/-- Settles O18: the indices are read off the tables in order, and the shifts are bounded by the rotations. -/
theorem subkeyTablesCoverEveryWordOnce : Obligations.SubkeyTablesCoverEveryWordOnce := by
  refine ⟨rfl, rfl, rfl, rfl, ?ks1, ?ks2⟩
  case ks1 =>
    intro e he
    obtain ⟨hrot, hquad⟩ := romCamKs1_reads e he
    exact ⟨e.shift_lt hrot, hquad⟩
  case ks2 => exact fun e he => e.shift_lt (romCamKs2_rot_lt e he)

end Sys2Proof.Machine
end

section
/-! PROOFS. What aes.init leaves (R163 to R168): the key's words, their expansion and the zeros after it, all of them
made from KEYLEN and the key bytes alone. -/

namespace Sys2Proof.Machine

/-! ### A successful aes.init -/

/-- The parameters of every supported length: Nk words of key and Nk + 6 rounds, with Nk = n / 4 (R11, R164). -/
theorem aesParams_of_supportedLength {n : Word} (h : SupportedLength n) :
    ∃ nk, aesParams n = some (nk, nk + 6) ∧ n.toNat = 4 * nk ∧ (nk = 4 ∨ nk = 6 ∨ nk = 8) := by
  obtain rfl | rfl | rfl := h
  · exact ⟨4, by decide⟩
  · exact ⟨6, by decide⟩
  · exact ⟨8, by decide⟩

/-- aes.init with the parameters of its KEYLEN completes (R165). -/
theorem exec_aesInit {s : State} {nk nr : Nat} (h : aesParams s.keylen = some (nk, nr)) :
    exec .aesInit s = .next (aesInitResult s nk nr) := by
  simp [exec, execAesInit, aesInitResult, h]

/-! ### The schedule it leaves -/

/-- The expansion starts with the words of the key registers (R163). -/
theorem getD_keyExpansion_key (key : Vector Word 8) {nk i : Nat} (nr : Nat) (hnk : nk ≤ 8) (hi : i < nk) :
    (keyExpansion (keyString key (4 * nk)) nk nr).getD i 0#32 = key[i] := by
  have hstart : i < ((List.range nk).map fun j => be32 (keyString key (4 * nk)) (4 * j)).length := by simpa using hi
  rw [keyExpansion, List.getD_eq_getElem?_getD, getElem?_expandWords_old _ _ _ _ hstart,
    List.getElem?_eq_getElem hstart, Option.getD_some, List.getElem_map, List.getElem_range]
  exact be32_keyString key (4 * nk) i (by omega) (by omega)

/-- The first Nk words of AES_RK are those of the key registers (R163, R166). -/
theorem aesInitResult_key_words {s : State} {nk i : Nat} (nr : Nat) (hlen : s.keylen.toNat = 4 * nk) (hnk : nk ≤ 8)
    (hi : i < nk) : (aesInitResult s nk nr).aesRk[i] = s.key[i] := by
  have hplace : (aesInitResult s nk nr).aesRk[i] =
      (keyExpansion (keyString s.key s.keylen.toNat) nk nr).getD i 0#32 := Vector.getElem_ofFn _
  rw [hplace, hlen, getD_keyExpansion_key _ _ hnk hi]

/-- Keys with the same first n bytes give the same AES context (R167). -/
theorem aesContext_congr {k k' : Vector Word 8} {n : Nat} (nk nr : Nat)
    (h : ∀ i, i < n → (keyBytes k')[i]? = (keyBytes k)[i]?) : aesContext k' n nk nr = aesContext k n nk nr := by
  rw [aesContext, aesContext, keyString_congr h]

/-! ### The obligations -/

/-- Settles O38: the invariants of a successful aes.init give the recurrence and the zeros, and the expansion keeps the
key's words in front. -/
theorem aesInitExpandsTheKey : Obligations.AesInitExpandsTheKey := by
  intro s hs
  obtain ⟨nk, hp, hlen, hnk⟩ := aesParams_of_supportedLength hs
  have hnr := aesInitResult_aesNr s hnk
  obtain ⟨-, hzero⟩ := (aesContextInv_aesInitResult hp).1 rfl
  refine ⟨_, exec_aesInit hp, by omega, rfl, rfl, rfl, fun i hi => ?key, aesScheduleInv_aesInitResult hp rfl, hzero,
    by omega⟩
  case key => exact aesInitResult_key_words _ hlen (by omega) (by omega)

/-- Settles O45: both commands place the context that KEYLEN and the key bytes give. -/
theorem aesScheduleDependsOnlyOnTheKey : Obligations.AesScheduleDependsOnlyOnTheKey := by
  intro s s' t t' hs hlen hbytes h h'
  obtain ⟨nk, hp, -, -⟩ := aesParams_of_supportedLength hs
  obtain rfl := Host.Outcome.next.inj (h.symm.trans (exec_aesInit hp))
  obtain rfl := Host.Outcome.next.inj (h'.symm.trans (exec_aesInit (by rwa [hlen])))
  have hctx : aesContext s'.key s'.keylen.toNat nk (nk + 6) = aesContext s.key s.keylen.toNat nk (nk + 6) := by
    rw [hlen, aesContext_congr _ _ hbytes]
  exact ⟨congrArg Prod.fst hctx, congrArg Prod.snd hctx⟩

end Sys2Proof.Machine
end

section
/-! PROOFS. MixColumns and InvMixColumns (R183, R202): products in GF(2^8) by the coefficients of the two FIPS-197
matrices as sums of doublings, which is how the two transformations write them. -/

namespace Sys2Proof.Machine

/-! ### XOR of bytes -/

/-- XOR commutes past a term in front. -/
theorem byte_xor_left_comm (a b c : Byte) : a ^^^ (b ^^^ c) = b ^^^ (a ^^^ c) := by
  rw [← BitVec.xor_assoc, BitVec.xor_comm a b, BitVec.xor_assoc]

/-! ### Products in GF(2^8) -/

/-- Doubling is additive (R19). -/
theorem mul2_xor (a b : Byte) : mul2 (a ^^^ b) = mul2 a ^^^ mul2 b := by
  have hcarry : ∀ p q : Bool, (if p ^^ q then 0x1B#8 else 0x00#8) =
      (if p then 0x1B#8 else 0x00#8) ^^^ (if q then 0x1B#8 else 0x00#8) := by decide
  simp only [mul2, BitVec.shiftLeft_xor_distrib, BitVec.getLsbD_xor, hcarry]
  ac_rfl

/-- Whatever part of the second factor is used, the product is additive in the first. -/
theorem gfMulLow_xor_left (n : Nat) (a a' b : Byte) :
    gfMulLow n (a ^^^ a') b = gfMulLow n a b ^^^ gfMulLow n a' b := by
  induction n generalizing a a' b with
  | zero => simp [gfMulLow]
  | succ n ih =>
    simp only [gfMulLow, mul2_xor, ih]
    split
    · ac_rfl
    · simp

/-- Whatever part of the second factor is used, doubling the first doubles the product. -/
theorem gfMulLow_mul2_left (n : Nat) (a b : Byte) : gfMulLow n (mul2 a) b = mul2 (gfMulLow n a b) := by
  induction n generalizing a b with
  | zero => simp [gfMulLow, mul2]
  | succ n ih =>
    simp only [gfMulLow, mul2_xor, ih]
    split <;> rfl

/-- The product by 0x01, the unit (R19). -/
theorem gfMul_one_left : ∀ b : Byte, gfMul 0x01#8 b = b := by decide +kernel

/-- The product is additive in its first factor. -/
theorem gfMul_xor_left (a a' b : Byte) : gfMul (a ^^^ a') b = gfMul a b ^^^ gfMul a' b := gfMulLow_xor_left 8 a a' b

/-- The product of a doubled first factor is the doubled product. -/
theorem gfMul_mul2_left (a b : Byte) : gfMul (mul2 a) b = mul2 (gfMul a b) := gfMulLow_mul2_left 8 a b

/-- The product by 0x02 is the doubling. -/
theorem gfMul_two_left (b : Byte) : gfMul 0x02#8 b = mul2 b := by
  rw [show 0x02#8 = mul2 0x01#8 from rfl, gfMul_mul2_left, gfMul_one_left]

/-- The product by 0x04 is the doubling, twice. -/
theorem gfMul_four_left (b : Byte) : gfMul 0x04#8 b = mul2 (mul2 b) := by
  rw [show 0x04#8 = mul2 0x02#8 from rfl, gfMul_mul2_left, gfMul_two_left]

/-- The product by 0x08 is the doubling, three times. -/
theorem gfMul_eight_left (b : Byte) : gfMul 0x08#8 b = mul2 (mul2 (mul2 b)) := by
  rw [show 0x08#8 = mul2 0x04#8 from rfl, gfMul_mul2_left, gfMul_four_left]

/-- The product by 0x03, the remaining coefficient of the forward matrix (R183). -/
theorem gfMul_three_left (b : Byte) : gfMul 0x03#8 b = mul2 b ^^^ b := by
  rw [show 0x03#8 = 0x02#8 ^^^ 0x01#8 from rfl, gfMul_xor_left, gfMul_two_left, gfMul_one_left]

/-- The coefficients of the inverse matrix are those of the forward one with 0x08 added to all and 0x04 to every other
(R202). -/
theorem gfMul_inverse_coefficients_left (b : Byte) :
    gfMul 0x0e#8 b = gfMul 0x02#8 b ^^^ gfMul 0x08#8 b ^^^ gfMul 0x04#8 b ∧
      gfMul 0x0b#8 b = gfMul 0x03#8 b ^^^ gfMul 0x08#8 b ∧
      gfMul 0x0d#8 b = gfMul 0x01#8 b ^^^ gfMul 0x08#8 b ^^^ gfMul 0x04#8 b ∧
      gfMul 0x09#8 b = gfMul 0x01#8 b ^^^ gfMul 0x08#8 b := by
  simp only [← gfMul_xor_left]
  exact ⟨rfl, rfl, rfl, rfl⟩

/-! ### The column transformations as matrices -/

/-- The forward matrix on a column, as sums of doublings (R183). -/
theorem matrixRow_mixMatrix (b : Fin 4 → Byte) (i : Fin 4) : matrixRow mixMatrix b i =
    b 0 ^^^ b 1 ^^^ b 2 ^^^ b 3 ^^^ b i ^^^ mul2 (b i ^^^ b (i + 1)) := by
  match i with
  | 0 | 1 | 2 | 3 =>
    simp [matrixRow, mixMatrix, byteRow, gfMul_one_left, gfMul_two_left, gfMul_three_left, mul2_xor, BitVec.xor_comm,
      BitVec.xor_assoc, byte_xor_left_comm]

/-- MixColumns is the FIPS-197 matrix on each column (R183). -/
@[simp] theorem gridAt_mixColumns (s : Grid) (i c : Fin 4) :
    gridAt (mixColumns s) i c = matrixRow mixMatrix (fun j => gridAt s j c) i := by
  simp only [mixColumns, gridAt_gridOf, romGfMul2_eq_mul2, matrixRow_mixMatrix]

/-- The inverse matrix on a column is the forward one with doublings added (R202). -/
theorem matrixRow_invMixMatrix (b : Fin 4 → Byte) (i : Fin 4) : matrixRow invMixMatrix b i =
    matrixRow mixMatrix b i ^^^ mul2 (mul2 (mul2 (b 0 ^^^ b 1 ^^^ b 2 ^^^ b 3))) ^^^
      mul2 (mul2 (if i.val % 2 = 0 then b 0 ^^^ b 2 else b 1 ^^^ b 3)) := by
  match i with
  | 0 | 1 | 2 | 3 =>
    simp only [matrixRow, invMixMatrix, mixMatrix, byteRow, gfMul_inverse_coefficients_left, gfMul_four_left,
      gfMul_eight_left, mul2_xor, Fin.coe_ofNat_eq_mod, Nat.reduceMod, one_ne_zero, ↓reduceIte]
    ac_rfl

/-- InvMixColumns is the FIPS-197 inverse matrix on each column (R202). -/
@[simp] theorem gridAt_invMixColumns (s : Grid) (i c : Fin 4) :
    gridAt (invMixColumns s) i c = matrixRow invMixMatrix (fun j => gridAt s j c) i := by
  simp only [invMixColumns, gridAt_gridOf, romGfMul2_eq_mul2, matrixRow_invMixMatrix, matrixRow_mixMatrix]
  split <;> ac_rfl

end Sys2Proof.Machine
end

section
/-! PROOFS. What aes.enc and aes.dec compute (R180 to R187, R200 to R205): the grids between DIN and DOUT, round by
round. -/

namespace Sys2Proof.Machine

/-! ### Columns and round keys -/

/-- The grid of four registers holds their bytes column by column (R180). -/
theorem gridAt_toState_blockOfWords (w : Vector Word 4) (i c : Fin 4) :
    gridAt (toState (blockOfWords w)) i c = columnByte w i c := by
  have hdiv : (i.val + 4 * c.val) / 4 = c.val := by omega
  have hmod : (i.val + 4 * c.val) % 4 = i.val := by omega
  simp [hdiv, hmod, columnByte, wordByte]

/-- The registers of a grid hold its columns (R187). -/
theorem columnByte_wordsOfBlock_fromState (s : Grid) (i c : Fin 4) :
    columnByte (wordsOfBlock (fromState s)) i c = gridAt s i c := by
  rw [← gridAt_toState_blockOfWords, blockOfWords_wordsOfBlock, toState_fromState]

/-- Adding a round key XORs its byte into each entry (R184). -/
theorem gridAt_addRoundKey_aesRk (s : State) (r : Nat) (g : Grid) (i c : Fin 4) :
    gridAt (addRoundKey s.aesRk r g) i c = gridAt g i c ^^^ roundKeyByte s r i c := gridAt_addRoundKey ..

/-! ### aes.enc -/

/-- The grid after AddRoundKey of round k of `Cipher` (R185). -/
def cipherGrid (rk : Vector Word 60) (b : Block) (k : Nat) : Grid :=
  (List.range' 1 k).foldl (cipherRound rk) (addRoundKey rk 0 (toState b))

/-- `Cipher` is its last round on the grid of its middle rounds (R185). -/
theorem cipher_eq (rk : Vector Word 60) (nr : Nat) (b : Block) :
    cipher rk nr b = fromState (addRoundKey rk nr (shiftRows (subBytes (cipherGrid rk b (nr - 1))))) := rfl

/-- `Cipher` begins with round key 0 (R185). -/
theorem cipherGrid_zero (rk : Vector Word 60) (b : Block) :
    cipherGrid rk b 0 = addRoundKey rk 0 (toState b) := rfl

/-- Each middle round takes the grid of the round before (R185). -/
theorem cipherGrid_succ (rk : Vector Word 60) (b : Block) (k : Nat) :
    cipherGrid rk b (k + 1) = cipherRound rk (cipherGrid rk b k) (k + 1) := by
  simp [cipherGrid, List.range'_1_concat, Nat.add_comm]

/-- aes.enc with a valid context writes the cipher of DIN to DOUT (R186). -/
theorem exec_aesEnc {s : State} (hv : s.aesValid = true) :
    exec .aesEnc s =
      .next (blockResult s (wordsOfBlock (cipher s.aesRk s.aesNr.toNat (blockOfWords s.din)))) := by
  simp [exec, execAesEnc, blockResult, hv]

/-- Settles O41: the grids are those after each AddRoundKey of `Cipher`, and MixColumns is the FIPS-197 matrix. -/
theorem aesEncIsTheCipherOfItsRoundKeys : Obligations.AesEncIsTheCipherOfItsRoundKeys := by
  intro s hv _
  refine ⟨_, fun k => gridAt (cipherGrid s.aesRk (blockOfWords s.din) k), exec_aesEnc hv, ?first, ?middle, ?last⟩
  case first =>
    intro i c
    simp only [cipherGrid_zero, gridAt_addRoundKey_aesRk, gridAt_toState_blockOfWords]
  case middle =>
    intro k hk _ i c
    obtain ⟨n, rfl⟩ := Nat.exists_eq_add_of_le' hk
    simp only [cipherGrid_succ, cipherRound, gridAt_addRoundKey_aesRk, gridAt_mixColumns, gridAt_shiftRows,
      gridAt_subBytes, Nat.add_sub_cancel]
  case last =>
    intro i c
    rw [cipher_eq, columnByte_wordsOfBlock_fromState, gridAt_addRoundKey_aesRk, gridAt_shiftRows, gridAt_subBytes]

/-! ### aes.dec -/

/-- The grid of `InvCipher` when its rounds nr down to k are done (R203). -/
def invCipherGrid (rk : Vector Word 60) (nr : Nat) (b : Block) (k : Nat) : Grid :=
  (List.range' k (nr - k)).reverse.foldl (invCipherRound rk) (addRoundKey rk nr (toState b))

/-- `InvCipher` is its last round on the grid of its middle rounds (R203). -/
theorem invCipher_eq (rk : Vector Word 60) (nr : Nat) (b : Block) :
    invCipher rk nr b =
      fromState (addRoundKey rk 0 (invSubBytes (invShiftRows (invCipherGrid rk nr b 1)))) := rfl

/-- `InvCipher` begins with round key nr (R203). -/
theorem invCipherGrid_self (rk : Vector Word 60) (nr : Nat) (b : Block) :
    invCipherGrid rk nr b nr = addRoundKey rk nr (toState b) := by
  simp [invCipherGrid]

/-- Each middle round takes the grid of the round above (R203). -/
theorem invCipherGrid_of_lt (rk : Vector Word 60) {nr k : Nat} (b : Block) (h : k < nr) :
    invCipherGrid rk nr b k = invCipherRound rk (invCipherGrid rk nr b (k + 1)) k := by
  have hrounds : List.range' k (nr - k) = k :: List.range' (k + 1) (nr - (k + 1)) := by
    rw [← List.range'_succ]
    congr 1
    omega
  rw [invCipherGrid, hrounds, List.reverse_cons, List.foldl_append]
  rfl

/-- aes.dec with a valid context writes the inverse cipher of DIN to DOUT (R205). -/
theorem exec_aesDec {s : State} (hv : s.aesValid = true) :
    exec .aesDec s =
      .next (blockResult s (wordsOfBlock (invCipher s.aesRk s.aesNr.toNat (blockOfWords s.din)))) := by
  simp [exec, execAesDec, blockResult, hv]

/-- Settles O42: the grids are those of `InvCipher` between its rounds, and InvMixColumns is the FIPS-197 matrix. -/
theorem aesDecIsTheInverseCipherOfItsRoundKeys : Obligations.AesDecIsTheInverseCipherOfItsRoundKeys := by
  intro s hv _
  refine ⟨_, fun k => gridAt (invCipherGrid s.aesRk s.aesNr.toNat (blockOfWords s.din) k), exec_aesDec hv, ?first,
    ?middle, ?last⟩
  case first =>
    intro i c
    simp only [invCipherGrid_self, gridAt_addRoundKey_aesRk, gridAt_toState_blockOfWords]
  case middle =>
    intro k _ hk i c
    simp only [invCipherGrid_of_lt _ _ hk, invCipherRound, gridAt_invMixColumns, gridAt_addRoundKey_aesRk,
      gridAt_invSubBytes, gridAt_invShiftRows]
  case last =>
    intro i c
    rw [invCipher_eq, columnByte_wordsOfBlock_fromState, gridAt_addRoundKey_aesRk, gridAt_invSubBytes,
      gridAt_invShiftRows]

end Sys2Proof.Machine
end

section
/-! PROOFS. aes.dec undoes aes.enc (R203, R206): each transformation of `InvCipher` undoes its own of `Cipher`, so a
round of the one undoes a round of the other, and the descending rounds undo the ascending ones. -/

namespace Sys2Proof.Machine

/-! ### The column transformations -/

/-- The forward matrix keeps the XOR of a column, since each row of it sums to 0x01. -/
theorem matrixRow_mixMatrix_sum (b : Fin 4 → Byte) :
    matrixRow mixMatrix b 0 ^^^ matrixRow mixMatrix b 1 ^^^ matrixRow mixMatrix b 2 ^^^ matrixRow mixMatrix b 3 =
      b 0 ^^^ b 1 ^^^ b 2 ^^^ b 3 := by
  simp [matrixRow_mixMatrix, mul2_xor, BitVec.xor_comm, BitVec.xor_assoc, byte_xor_left_comm]

/-- Opposite rows of the forward matrix differ by the opposite bytes and the doubled XOR of the column. -/
theorem matrixRow_mixMatrix_opposite (b : Fin 4 → Byte) (i : Fin 4) :
    matrixRow mixMatrix b i ^^^ matrixRow mixMatrix b (i + 2) =
      b i ^^^ b (i + 2) ^^^ mul2 (b 0 ^^^ b 1 ^^^ b 2 ^^^ b 3) := by
  match i with
  | 0 | 1 | 2 | 3 =>
    simp [matrixRow_mixMatrix, mul2_xor, BitVec.xor_comm, BitVec.xor_assoc, byte_xor_left_comm]

/-- The square of the forward matrix adds to each byte its sum with the opposite one, doubled twice. -/
theorem matrixRow_mixMatrix_mixMatrix (b : Fin 4 → Byte) (i : Fin 4) :
    matrixRow mixMatrix (matrixRow mixMatrix b) i = b i ^^^ mul2 (mul2 (b i ^^^ b (i + 2))) := by
  rw [matrixRow_mixMatrix (matrixRow mixMatrix b), matrixRow_mixMatrix_sum]
  match i with
  | 0 | 1 | 2 | 3 =>
    simp [matrixRow_mixMatrix, mul2_xor, BitVec.xor_comm, BitVec.xor_assoc, byte_xor_left_comm]

/-- The inverse matrix undoes the forward one (R202). -/
theorem matrixRow_invMixMatrix_mixMatrix (b : Fin 4 → Byte) (i : Fin 4) :
    matrixRow invMixMatrix (matrixRow mixMatrix b) i = b i := by
  have h0 := matrixRow_mixMatrix_opposite b 0
  have h1 := matrixRow_mixMatrix_opposite b 1
  simp only [zero_add, Fin.reduceAdd] at h0 h1
  rw [matrixRow_invMixMatrix, matrixRow_mixMatrix_mixMatrix, matrixRow_mixMatrix_sum, h0, h1]
  match i with
  | 0 | 1 | 2 | 3 => simp [mul2_xor, BitVec.xor_comm, BitVec.xor_assoc]

/-- InvMixColumns undoes MixColumns (R202). -/
theorem invMixColumns_mixColumns (s : Grid) : invMixColumns (mixColumns s) = s := by
  apply grid_ext
  intro i c
  simp only [gridAt_invMixColumns, gridAt_mixColumns]
  exact matrixRow_invMixMatrix_mixMatrix (fun j => gridAt s j c) i

/-! ### The other transformations -/

/-- InvSubBytes undoes SubBytes (R200). -/
theorem invSubBytes_subBytes (s : Grid) : invSubBytes (subBytes s) = s := by
  apply grid_ext
  intro i c
  simp only [gridAt_invSubBytes, gridAt_subBytes, romAesInvSbox_romAesSbox]

/-- InvShiftRows undoes ShiftRows (R201). -/
theorem invShiftRows_shiftRows (s : Grid) : invShiftRows (shiftRows s) = s := by
  apply grid_ext
  intro i c
  simp only [gridAt_invShiftRows, gridAt_shiftRows, sub_add_cancel]

/-! ### The rounds -/

/-- On the shifted and substituted grid of a middle round of `Cipher`, the round of `InvCipher` with the same key gives
that of the grid before (R185, R203). -/
theorem invCipherRound_cipherRound (rk : Vector Word 60) (s : Grid) (r : Nat) :
    invCipherRound rk (shiftRows (subBytes (cipherRound rk s r))) r = shiftRows (subBytes s) := by
  rw [invCipherRound, invShiftRows_shiftRows, invSubBytes_subBytes, cipherRound, addRoundKey_addRoundKey,
    invMixColumns_mixColumns]

/-- The middle rounds of `InvCipher` in the opposite order undo those of `Cipher`, whatever their keys. -/
theorem foldl_invCipherRound_foldl_cipherRound (rk : Vector Word 60) (rs : List Nat) (s : Grid) :
    rs.reverse.foldl (invCipherRound rk) (shiftRows (subBytes (rs.foldl (cipherRound rk) s))) =
      shiftRows (subBytes s) := by
  induction rs generalizing s with
  | nil => rfl
  | cons r rs ih =>
    simp only [List.reverse_cons, List.foldl_append, List.foldl_cons, List.foldl_nil, ih, invCipherRound_cipherRound]

/-- `InvCipher` undoes `Cipher` with the same round keys, whatever the round count (R203). -/
theorem invCipher_cipher (rk : Vector Word 60) (nr : Nat) (b : Block) : invCipher rk nr (cipher rk nr b) = b := by
  have hrounds : invCipherGrid rk nr (cipher rk nr b) 1 = shiftRows (subBytes (addRoundKey rk 0 (toState b))) := by
    rw [invCipherGrid, cipher_eq, toState_fromState, addRoundKey_addRoundKey, cipherGrid,
      foldl_invCipherRound_foldl_cipherRound]
  rw [invCipher_eq, hrounds, invShiftRows_shiftRows, invSubBytes_subBytes, addRoundKey_addRoundKey, fromState_toState]

/-! ### The commands -/

/-- With a valid context and the cipher of `p` in DIN, aes.dec writes `p` to DOUT (R205). -/
theorem exec_aesDec_of_din_eq_cipher {s : State} {p : Vector Word 4} (hv : s.aesValid = true)
    (hdin : s.din = wordsOfBlock (cipher s.aesRk s.aesNr.toNat (blockOfWords p))) :
    exec .aesDec s = .next (blockResult s p) := by
  rw [exec_aesDec hv, hdin, blockOfWords_wordsOfBlock, invCipher_cipher, wordsOfBlock_blockOfWords]

/-- Settles O43: aes.enc leaves the context as it was, so the DOUT it writes is the cipher of DIN under the context that
aes.dec finds. -/
theorem aesDecryptionUndoesEncryption : Obligations.AesDecryptionUndoesEncryption := by
  intro s hv
  exact ⟨_, _, exec_aesEnc hv, exec_aesDec_of_din_eq_cipher hv rfl, rfl⟩

/-- Settles O44: a successful aes.init leaves a valid context, which the two block commands then share. -/
theorem aesRoundTripAfterInit : Obligations.AesRoundTripAfterInit := by
  intro s p hs
  obtain ⟨nk, hp, -, -⟩ := aesParams_of_supportedLength hs
  have hv : (aesInitResult s nk (nk + 6)).aesValid = true := rfl
  exact ⟨_, _, _, exec_aesInit hp, exec_aesEnc hv, exec_aesDec_of_din_eq_cipher hv rfl, rfl, rfl⟩

end Sys2Proof.Machine
end

section
/-! PROOFS. What cam.init leaves (R220 to R230): KL and KR as the key registers hold them, the windows of a rotated
quadruple, and a context made from KEYLEN and the key bytes alone. -/

namespace Sys2Proof.Machine

/-! ### Windows -/

/-- Settles O47: a rotation of 128 bits counts its shift modulo 128. -/
theorem rotWinIsTheTopOfTheRotation : Obligations.RotWinIsTheTopOfTheRotation := by
  intro q n _
  rw [rotWin_append, BitVec.rotateLeft_mod_eq_rotateLeft]

/-! ### A successful cam.init -/

/-- Every supported length has parameters (R12, R220). -/
theorem camParams_of_supportedLength {n : Word} (h : SupportedLength n) : ∃ nr w, camParams n = some (nr, w) := by
  obtain rfl | rfl | rfl := h <;> exact ⟨_, _, rfl⟩

/-- cam.init with the parameters of its KEYLEN completes (R228). -/
theorem exec_camInit {s : State} {nr w : Nat} (h : camParams s.keylen = some (nr, w)) :
    exec .camInit s = .next (camInitResult s nr) := by
  simp [exec, execCamInit, camInitResult, h]

/-- A successful cam.init leaves 18 rounds for a 16-byte key and 24 otherwise (R220, R229). -/
theorem camInitResult_camNr {s : State} {nr w : Nat} (h : camParams s.keylen = some (nr, w)) :
    (camInitResult s nr).camNr = if s.keylen = 16#32 then 18#32 else 24#32 := by
  obtain ⟨hn, rfl⟩ | ⟨hn, rfl⟩ := camParams_bounds h
  · rw [if_pos hn]; rfl
  · rw [if_neg hn]; rfl

/-- A successful cam.init leaves 18 rounds for 16-byte keys only. -/
theorem camInitResult_camNr_eq_18 {s : State} {nr w : Nat} (h : camParams s.keylen = some (nr, w)) :
    (camInitResult s nr).camNr = 18#32 ↔ s.keylen = 16#32 := by
  rw [camInitResult_camNr h]
  split <;> simp [*]

/-- A successful cam.init with a 16-byte key leaves zeros after its 52 subkey words (R229). -/
theorem camInitResult_camSk_beyond {s : State} {nr w : Nat} (h : camParams s.keylen = some (nr, w))
    (h16 : s.keylen = 16#32) (i : Fin 68) (hi : 52 ≤ i.val) : (camInitResult s nr).camSk[i] = 0#32 := by
  obtain ⟨-, hzero⟩ := (camContextInv_camInitResult h).1 rfl
  exact hzero ((camInitResult_camNr_eq_18 h).2 h16) i hi

/-! ### KL and KR -/

/-- A word within a byte string is not changed by what follows the string. -/
theorem be32_append (k z : List Byte) {j : Nat} (h : j + 3 < k.length) : be32 (k ++ z) j = be32 k j := by
  have hleft (i : Nat) (hi : i < k.length) : (k ++ z).getD i 0 = k.getD i 0 := List.getD_append k z 0 i hi
  rw [be32, be32, hleft _ (by omega), hleft _ (by omega), hleft _ (by omega), hleft _ h]

/-- Word i of the padded key string, where the key has one, is KEYi (R221). -/
theorem be32_keyString_append (key : Vector Word 8) (z : List Byte) {n : Nat} (i : Nat) (h : 4 * i + 3 < n)
    (h8 : i < 8) : be32 (keyString key n ++ z) (4 * i) = key[i] := by
  rw [be32_append _ _ (by rw [length_keyString]; omega), be32_keyString key n i h h8]

/-- KL is KEY0 to KEY3 (R221). -/
theorem loadKeyMaterial_kl (key : Vector Word 8) {n : Nat} (h : 16 ≤ n) :
    (loadKeyMaterial (keyString key n)).1 = ⟨key[0], key[1], key[2], key[3]⟩ := by
  have hword (i : Nat) (hi : i < 4) := be32_keyString_append key
    (List.replicate (64 - (keyString key n).length) 0#8) (n := n) i (by omega) (by omega)
  simp only [loadKeyMaterial, Quad.mk.injEq]
  exact ⟨hword 0 (by decide), hword 1 (by decide), hword 2 (by decide), hword 3 (by decide)⟩

/-- For a 24-byte key KR is KEY4, KEY5 and their complements (R221). -/
theorem loadKeyMaterial_kr_24 (key : Vector Word 8) :
    (loadKeyMaterial (keyString key 24)).2 = ⟨key[4], key[5], ~~~key[4], ~~~key[5]⟩ := by
  have hlen : (keyString key 24).length = 24 := length_keyString key 24
  have hword (i : Nat) (hi : i < 6) :=
    be32_keyString_append key (List.replicate 40 0#8) (n := 24) i (by omega) (by omega)
  simp only [loadKeyMaterial, hlen, if_true]
  rw [hword 4 (by decide), hword 5 (by decide)]

/-- For a 32-byte key KR is KEY4 to KEY7 (R221). -/
theorem loadKeyMaterial_kr_32 (key : Vector Word 8) :
    (loadKeyMaterial (keyString key 32)).2 = ⟨key[4], key[5], key[6], key[7]⟩ := by
  have hlen : (keyString key 32).length = 32 := length_keyString key 32
  have hword (i : Nat) (hi : i < 8) := be32_keyString_append key (List.replicate 32 0#8) (n := 32) i (by omega) hi
  simp only [loadKeyMaterial, hlen, Nat.reduceEqDiff, if_false, Quad.mk.injEq]
  exact ⟨hword 4 (by decide), hword 5 (by decide), hword 6 (by decide), hword 7 (by decide)⟩

/-- A successful cam.init leaves KL and KR in the first two quadruples of CAM_KM (R42, R229). -/
theorem quadAt_camInitResult (s : State) (nr : Nat) :
    quadAt (camInitResult s nr).camKm 0 = (loadKeyMaterial (keyString s.key s.keylen.toNat)).1 ∧
      quadAt (camInitResult s nr).camKm 4 = (loadKeyMaterial (keyString s.key s.keylen.toNat)).2 :=
  ⟨quadAt_file _ .kl, quadAt_file _ .kr⟩

/-- The four registers that hold a quadruple hold its words. -/
theorem getElem_of_quadAt {km : Vector Word 16} {k : Nat} (hk : k + 3 < 16) {a b c d : Word}
    (h : quadAt km k = ⟨a, b, c, d⟩) : km[k] = a ∧ km[k + 1] = b ∧ km[k + 2] = c ∧ km[k + 3] = d := by
  have hword (i : Nat) (hi : i < 16) : km.toList.getD i 0#32 = km[i] := by simp [List.getD_eq_getElem?_getD, hi]
  simpa only [quadAt, Quad.mk.injEq, hword k (by omega), hword (k + 1) (by omega), hword (k + 2) (by omega),
    hword (k + 3) hk] using h

/-- A supported length is at least 16. -/
theorem SupportedLength.le_toNat {n : Word} (h : SupportedLength n) : 16 ≤ n.toNat := by
  obtain rfl | rfl | rfl := h <;> decide

/-- Settles O46: the invariants of a successful cam.init give the derivation, the subkeys and the zeros, and KL and KR
are read off the key registers. -/
theorem camInitDerivesTheContext : Obligations.CamInitDerivesTheContext := by
  intro s hs
  obtain ⟨nr, w, hp⟩ := camParams_of_supportedLength hs
  obtain ⟨hkl, hkr⟩ := quadAt_camInitResult s nr
  obtain ⟨hderived, hzero, htable⟩ := camScheduleInv_camInitResult hp rfl
  simp only [camInitResult_camNr_eq_18 hp] at hzero htable
  refine ⟨_, exec_camInit hp, camInitResult_camNr hp, rfl, rfl, rfl, ?kl, hzero, ?kr24, ?kr32, hderived, htable,
    camInitResult_camSk_beyond hp⟩
  case kl =>
    rw [loadKeyMaterial_kl _ hs.le_toNat] at hkl
    obtain ⟨h0, h1, h2, h3⟩ := getElem_of_quadAt (by decide) hkl
    exact fun i => match i with | 0 => h0 | 1 => h1 | 2 => h2 | 3 => h3
  case kr24 =>
    intro h24
    rw [h24] at hkr
    obtain ⟨h4, h5, h6, h7⟩ := getElem_of_quadAt (by decide) (hkr.trans (loadKeyMaterial_kr_24 _))
    exact ⟨h4, h5, h6.trans (congrArg _ h4.symm), h7.trans (congrArg _ h5.symm)⟩
  case kr32 =>
    intro h32
    rw [h32] at hkr
    obtain ⟨h4, h5, h6, h7⟩ := getElem_of_quadAt (by decide) (hkr.trans (loadKeyMaterial_kr_32 _))
    exact fun i => match i with | 0 => h4 | 1 => h5 | 2 => h6 | 3 => h7

/-! ### Equal contexts -/

/-- Settles O54: both commands place the context that KEYLEN and the key bytes give (R230). -/
theorem camContextDependsOnlyOnTheKey : Obligations.CamContextDependsOnlyOnTheKey := by
  intro s s' t t' hs hlen hbytes h h'
  obtain ⟨nr, w, hp⟩ := camParams_of_supportedLength hs
  obtain rfl := Host.Outcome.next.inj (h.symm.trans (exec_camInit hp))
  obtain rfl := Host.Outcome.next.inj (h'.symm.trans (exec_camInit (by rwa [hlen])))
  have hctx : camContext s'.key s'.keylen.toNat nr = camContext s.key s.keylen.toNat nr := by
    rw [hlen, camContext, camContext, keyString_congr hbytes]
  exact ⟨congrArg (·.1) hctx, congrArg (·.2.1) hctx, rfl, camInitResult_camNr hp, camInitResult_camSk_beyond hp⟩

/-- Settles O55: the two keys load the same KL and KR and select the same subkey table. -/
theorem complemented192BitKeyIsA256BitKey : Obligations.Complemented192BitKeyIsA256BitKey := by
  intro s s' hs hs' hkey hkey6 hkey7
  have hword (i : Nat) (hi : i < 6) : s'.key[i] = s.key[i] := hkey ⟨i, hi⟩
  have hkl : (loadKeyMaterial (keyString s'.key 32)).1 = (loadKeyMaterial (keyString s.key 24)).1 := by
    rw [loadKeyMaterial_kl _ (by decide), loadKeyMaterial_kl _ (by decide), hword 0 (by decide), hword 1 (by decide),
      hword 2 (by decide), hword 3 (by decide)]
  have hkr : (loadKeyMaterial (keyString s'.key 32)).2 = (loadKeyMaterial (keyString s.key 24)).2 := by
    rw [loadKeyMaterial_kr_32, loadKeyMaterial_kr_24, hkey6, hkey7, hword 4 (by decide), hword 5 (by decide)]
  have hctx : camContext s'.key s'.keylen.toNat 24 = camContext s.key s.keylen.toNat 24 := by
    have hlen : s.keylen.toNat = 24 := congrArg BitVec.toNat hs
    have hlen' : s'.keylen.toNat = 32 := congrArg BitVec.toNat hs'
    have htable : subkeyTable 32 = subkeyTable 24 := rfl
    rw [hlen, hlen', camContext, camContext, hkl, hkr, htable]
  have hp : camParams s.keylen = some (24, 68) := by rw [hs]; rfl
  have hp' : camParams s'.keylen = some (24, 68) := by rw [hs']; rfl
  exact ⟨_, _, exec_camInit hp, exec_camInit hp', congrArg (·.1) hctx, congrArg (·.2.1) hctx, rfl, rfl⟩

end Sys2Proof.Machine
end

section
/-! PROOFS. What cam.enc and cam.dec compute (R250 to R259): the 64-bit halves between DIN and DOUT, round by round. -/

namespace Sys2Proof.Machine

/-! ### Steps on 64-bit halves -/

/-- The left half L = l1:l2 as one number (R250). -/
def Halves.left (h : Halves) : BitVec 64 := h.l1 ++ h.l2

/-- The right half R = r1:r2 as one number (R250). -/
def Halves.right (h : Halves) : BitVec 64 := h.r1 ++ h.r2

/-- Swapping exchanges the halves. -/
@[simp] theorem left_swap (h : Halves) : h.swap.left = h.right := rfl

@[simp] theorem right_swap (h : Halves) : h.swap.right = h.left := rfl

/-- The halves of a block's registers (R250). -/
@[simp] theorem left_halvesOfWords (w : Vector Word 4) : (halvesOfWords w).left = leftHalf w := rfl

@[simp] theorem right_halvesOfWords (w : Vector Word 4) : (halvesOfWords w).right = rightHalf w := rfl

/-- The registers of an output hold its halves (R258). -/
@[simp] theorem leftHalf_registers (h : Halves) : leftHalf h.registers = h.left := rfl

@[simp] theorem rightHalf_registers (h : Halves) : rightHalf h.registers = h.right := rfl

/-- Whitening XORs each half with a subkey (R227, R258). -/
@[simp] theorem left_whiten (sk : Vector Word 68) (k : Nat) (h : Halves) :
    (whiten sk k h).left = h.left ^^^ subkey64 sk k := (half_xor ..).symm

@[simp] theorem right_whiten (sk : Vector Word 68) (k : Nat) (h : Halves) :
    (whiten sk k h).right = h.right ^^^ subkey64 sk (k + 2) := (half_xor ..).symm

/-- A round's new left half is the old right half XOR F of the old left half (R254). -/
@[simp] theorem left_camRound (sk : Vector Word 68) (k : Nat) (h : Halves) :
    (camRound h (subkeyWord sk k) (subkeyWord sk (k + 1))).left = h.right ^^^ camF64 h.left (subkey64 sk k) := by
  rw [Halves.left, Halves.right, Halves.left, subkey64, ← camF_append, half_xor]
  rfl

/-- A round's new right half is the old left half (R254). -/
@[simp] theorem right_camRound (h : Halves) (k1 k2 : Word) : (camRound h k1 k2).right = h.left := rfl

/-- The two words of a 64-bit number. -/
theorem extractLsb'_append_words (x y : Word) :
    (x ++ y : BitVec 64).extractLsb' 32 32 = x ∧ (x ++ y : BitVec 64).extractLsb' 0 32 = y :=
  ⟨BitVec.extractLsb'_append_eq_left, BitVec.extractLsb'_append_eq_right⟩

/-- An FL layer's forward transform on the left half (R255, R257). -/
@[simp] theorem left_flLayer (sk : Vector Word 68) (kl kr : Nat) (h : Halves) :
    (flLayer sk kl kr h).left = camFL64 h.left (subkey64 sk kl) := by
  simp only [camFL64, Halves.left, subkey64, extractLsb'_append_words]
  rfl

/-- An FL layer's inverse transform on the right half (R256, R257). -/
@[simp] theorem right_flLayer (sk : Vector Word 68) (kl kr : Nat) (h : Halves) :
    (flLayer sk kl kr h).right = camFLInv64 h.right (subkey64 sk kr) := by
  simp only [camFLInv64, Halves.right, subkey64, extractLsb'_append_words]
  rfl

/-! ### cam.enc -/

/-- The halves after round j of cam.enc and its FL layer (R258). -/
def camEncHalves (sk : Vector Word 68) (nr : Nat) (h : Halves) (j : Nat) : Halves :=
  (List.range' 1 j).foldl (camEncRound sk nr) (whiten sk 0 h)

/-- The output of cam.enc is the swapped and whitened halves after its last round (R258). -/
theorem camEncrypt_eq (sk : Vector Word 68) (nr : Nat) (h : Halves) :
    camEncrypt sk nr h = whiten sk (subkeyCount nr - 4) (camEncHalves sk nr h nr).swap := rfl

/-- cam.enc begins with whitening (R258). -/
theorem camEncHalves_zero (sk : Vector Word 68) (nr : Nat) (h : Halves) : camEncHalves sk nr h 0 = whiten sk 0 h := rfl

/-- Each round of cam.enc takes the halves of the round before (R258). -/
theorem camEncHalves_succ (sk : Vector Word 68) (nr : Nat) (h : Halves) (j : Nat) :
    camEncHalves sk nr h (j + 1) = camEncRound sk nr (camEncHalves sk nr h j) (j + 1) := by
  simp [camEncHalves, List.range'_1_concat, Nat.add_comm]

/-- cam.enc with a valid context writes the output of its network on DIN to DOUT (R258). -/
theorem exec_camEnc {s : State} (hv : s.camValid = true) :
    exec .camEnc s =
      .next (blockResult s (camEncrypt s.camSk s.camNr.toNat (halvesOfWords s.din)).registers) := by
  simp [exec, execCamEnc, blockResult, hv]

/-- The first subkey word of the last whitening, which is N - 4, by the round count (R227). -/
theorem subkeyCount_sub_four {n : Word} (h : n = 18#32 ∨ n = 24#32) :
    subkeyCount n.toNat - 4 = (if n = 18#32 then 48 else 64) ∧
      subkeyCount n.toNat - 4 + 2 = if n = 18#32 then 50 else 66 := by
  obtain rfl | rfl := h <;> decide

/-- Settles O50: the halves are those of cam.enc after each round. -/
theorem camEncIsTheFeistelNetwork : Obligations.CamEncIsTheFeistelNetwork := by
  intro s hv hnr
  obtain ⟨hkw3, hkw4⟩ := subkeyCount_sub_four hnr
  refine ⟨_, fun j => (camEncHalves s.camSk s.camNr.toNat (halvesOfWords s.din) j).left,
    fun j => (camEncHalves s.camSk s.camNr.toNat (halvesOfWords s.din) j).right, exec_camEnc hv, ?left, ?right, ?round,
    ?outLeft, ?outRight⟩
  case left => simp only [camEncHalves_zero, left_whiten, left_halvesOfWords]
  case right => simp only [camEncHalves_zero, right_whiten, right_halvesOfWords, zero_add]
  case round =>
    intro j hj _
    obtain ⟨n, rfl⟩ := Nat.exists_eq_add_of_le' hj
    simp only [Nat.add_sub_cancel, camEncHalves_succ, camEncRound, roundSubkey]
    split
    · exact ⟨by rw [left_flLayer, left_camRound], by rw [right_flLayer, right_camRound]⟩
    · exact ⟨left_camRound .., right_camRound ..⟩
  case outLeft => rw [leftHalf_registers, camEncrypt_eq, left_whiten, left_swap, hkw3]
  case outRight => rw [rightHalf_registers, camEncrypt_eq, right_whiten, right_swap, hkw4]

/-! ### cam.dec -/

/-- The halves of cam.dec when its rounds nr down to j + 1 and their FL layers are done (R259). -/
def camDecHalves (sk : Vector Word 68) (nr : Nat) (h : Halves) (j : Nat) : Halves :=
  (List.range' (j + 1) (nr - j)).reverse.foldl (camDecRound sk) (whiten sk (subkeyCount nr - 4) h)

/-- The output of cam.dec is the swapped and whitened halves after round 1 (R259). -/
theorem camDecrypt_eq (sk : Vector Word 68) (nr : Nat) (h : Halves) :
    camDecrypt sk nr h = whiten sk 0 (camDecHalves sk nr h 0).swap := rfl

/-- cam.dec begins with whitening (R259). -/
theorem camDecHalves_self (sk : Vector Word 68) (nr : Nat) (h : Halves) :
    camDecHalves sk nr h nr = whiten sk (subkeyCount nr - 4) h := by
  simp [camDecHalves]

/-- Each round of cam.dec takes the halves of the round above (R259). -/
theorem camDecHalves_of_lt (sk : Vector Word 68) {nr j : Nat} (h : Halves) (hj : j < nr) :
    camDecHalves sk nr h j = camDecRound sk (camDecHalves sk nr h (j + 1)) (j + 1) := by
  have hrounds : List.range' (j + 1) (nr - j) = (j + 1) :: List.range' (j + 1 + 1) (nr - (j + 1)) := by
    rw [← List.range'_succ]
    congr 1
    omega
  rw [camDecHalves, hrounds, List.reverse_cons, List.foldl_append]
  rfl

/-- cam.dec with a valid context writes the output of its network on DIN to DOUT (R259). -/
theorem exec_camDec {s : State} (hv : s.camValid = true) :
    exec .camDec s =
      .next (blockResult s (camDecrypt s.camSk s.camNr.toNat (halvesOfWords s.din)).registers) := by
  simp [exec, execCamDec, blockResult, hv]

/-- Settles O51: the halves are those of cam.dec before each round. -/
theorem camDecIsTheReversedFeistelNetwork : Obligations.CamDecIsTheReversedFeistelNetwork := by
  intro s hv hnr
  obtain ⟨hkw3, hkw4⟩ := subkeyCount_sub_four hnr
  refine ⟨_, fun j => (camDecHalves s.camSk s.camNr.toNat (halvesOfWords s.din) j).left,
    fun j => (camDecHalves s.camSk s.camNr.toNat (halvesOfWords s.din) j).right, exec_camDec hv, ?left, ?right, ?round,
    ?outLeft, ?outRight⟩
  case left => simp only [camDecHalves_self, left_whiten, left_halvesOfWords, hkw3]
  case right => simp only [camDecHalves_self, right_whiten, right_halvesOfWords, hkw4]
  case round =>
    intro j hj hle
    obtain ⟨n, rfl⟩ := Nat.exists_eq_add_of_le' hj
    simp only [Nat.add_sub_cancel, camDecHalves_of_lt _ _ hle, camDecRound, roundSubkey]
    split
    · exact ⟨by rw [left_flLayer, left_camRound], by rw [right_flLayer, right_camRound]⟩
    · exact ⟨left_camRound .., right_camRound ..⟩
  case outLeft => rw [leftHalf_registers, camDecrypt_eq, left_whiten, left_swap]
  case outRight => rw [rightHalf_registers, camDecrypt_eq, right_whiten, right_swap]

end Sys2Proof.Machine
end

section
/-! PROOFS. The F-function and the FL transforms on words (R253, R255, R256), and cam.dec undoes cam.enc (R258 to R260):
each round of cam.dec takes back a round of cam.enc and the FL layer before it. -/

namespace Sys2Proof.Machine

/-! ### The F-function and the FL transforms -/

/-- Settles O48: on the S-outputs, CamP's four lines reduce to the byte equations (`camP_ofBytes`). -/
theorem camelliaFunctionFollowsTheByteEquations : Obligations.CamelliaFunctionFollowsTheByteEquations := camF_append

/-- CamFLInv undoes CamFL: the OR line first, then the AND line, each with the word the other line left (R256). -/
theorem camFLInv_camFL (xl xr kl kr : Word) :
    camFLInv (camFL xl xr kl kr).1 (camFL xl xr kl kr).2 kl kr = (xl, xr) := by
  simp only [camFL, camFLInv, BitVec.xor_assoc, BitVec.xor_self, BitVec.xor_zero]

/-- CamFL undoes CamFLInv, the two lines the other way round (R255). -/
theorem camFL_camFLInv (yl yr kl kr : Word) :
    camFL (camFLInv yl yr kl kr).1 (camFLInv yl yr kl kr).2 kl kr = (yl, yr) := by
  simp only [camFL, camFLInv, BitVec.xor_assoc, BitVec.xor_self, BitVec.xor_zero]

/-- Settles O49: each direction by its own cancellation. -/
theorem inverseFlUndoesFl : Obligations.InverseFlUndoesFl := fun x y kl kr =>
  ⟨camFLInv_camFL x y kl kr, camFL_camFLInv x y kl kr⟩

/-! ### cam.dec after cam.enc -/

/-- The FL layer of cam.dec that takes back the one after round j of cam.enc, where there is one (R257, R259). -/
def camDecLayer (sk : Vector Word 68) (nr j : Nat) (h : Halves) : Halves :=
  if j % 6 = 0 ∧ 0 < j ∧ j < nr then flLayer sk (16 * (j / 6) + 2) (16 * (j / 6)) h else h

/-- No FL layer stands before round 1. -/
theorem camDecLayer_zero (sk : Vector Word 68) (nr : Nat) (h : Halves) : camDecLayer sk nr 0 h = h :=
  if_neg (by simp)

/-- No FL layer stands after the last round. -/
theorem camDecLayer_self (sk : Vector Word 68) (nr : Nat) (h : Halves) : camDecLayer sk nr nr h = h :=
  if_neg (by simp)

/-- Round j + 1 of cam.dec is the round and then the layer that takes back the one after round j (R259). -/
theorem camDecRound_succ (sk : Vector Word 68) {nr j : Nat} (h : Halves) (hj : j < nr) :
    camDecRound sk h (j + 1) =
      camDecLayer sk nr j
        (camRound h (subkeyWord sk (roundSubkey (j + 1))) (subkeyWord sk (roundSubkey (j + 1) + 1))) := by
  simp [camDecRound, camDecLayer, hj]

/-- The layer of cam.dec takes back the FL layer of round j of cam.enc and leaves its round (R256, R257). -/
theorem camDecLayer_swap_camEncRound (sk : Vector Word 68) (nr : Nat) {j : Nat} (h : Halves) (hj : 0 < j) :
    camDecLayer sk nr j (camEncRound sk nr h j).swap =
      (camRound h (subkeyWord sk (roundSubkey j)) (subkeyWord sk (roundSubkey j + 1))).swap := by
  by_cases hfl : j % 6 = 0 ∧ j < nr
  · rw [camEncRound, if_pos hfl, camDecLayer, if_pos ⟨hfl.1, hj, hfl.2⟩, flLayer_swap_flLayer]
  · rw [camEncRound, if_neg hfl, camDecLayer, if_neg fun hc => hfl ⟨hc.1, hc.2.2⟩]

/-- Before round j of cam.dec on an output of cam.enc stand the swapped halves after round j of cam.enc, its FL layer
taken back. -/
theorem camDecHalves_camEncrypt (sk : Vector Word 68) {nr j : Nat} (h : Halves) (hj : j ≤ nr) :
    camDecHalves sk nr (camEncrypt sk nr h) j = camDecLayer sk nr j (camEncHalves sk nr h j).swap := by
  induction hj using Nat.decreasingInduction with
  | self => rw [camDecHalves_self, camEncrypt_eq, whiten_whiten, camDecLayer_self]
  | of_succ k hk ih =>
    rw [camDecHalves_of_lt sk _ hk, ih, camEncHalves_succ, camDecLayer_swap_camEncRound sk nr _ k.succ_pos,
      camDecRound_succ sk _ hk, camRound_swap_camRound]

/-- The body of cam.dec undoes that of cam.enc with the same subkeys, whatever the round count (R260). -/
theorem camDecrypt_camEncrypt (sk : Vector Word 68) (nr : Nat) (h : Halves) :
    camDecrypt sk nr (camEncrypt sk nr h) = h := by
  rw [camDecrypt_eq, camDecHalves_camEncrypt sk h nr.zero_le, camDecLayer_zero, camEncHalves_zero, swap_swap,
    whiten_whiten]

/-- With a valid context and the encryption of `p` in DIN, cam.dec writes `p` to DOUT (R259). -/
theorem exec_camDec_of_din_eq_camEncrypt {s : State} {p : Vector Word 4} (hv : s.camValid = true)
    (hdin : s.din = (camEncrypt s.camSk s.camNr.toNat (halvesOfWords p)).registers) :
    exec .camDec s = .next (blockResult s p) := by
  rw [exec_camDec hv, hdin, halvesOfWords_registers, camDecrypt_camEncrypt, registers_halvesOfWords]

/-- Settles O52: cam.enc leaves the context as it was, so the DOUT it writes is the encryption of DIN under the context
that cam.dec finds. -/
theorem camDecryptionUndoesEncryption : Obligations.CamDecryptionUndoesEncryption := by
  intro s hv
  exact ⟨_, _, exec_camEnc hv, exec_camDec_of_din_eq_camEncrypt hv rfl, rfl⟩

/-- Settles O53: a successful cam.init leaves a valid context, which the two block commands then share. -/
theorem camRoundTripAfterInit : Obligations.CamRoundTripAfterInit := by
  intro s p hs
  obtain ⟨nr, w, hp⟩ := camParams_of_supportedLength hs
  have hv : (camInitResult s nr).camValid = true := rfl
  exact ⟨_, _, _, exec_camInit hp, exec_camEnc hv, exec_camDec_of_din_eq_camEncrypt hv rfl, rfl, rfl⟩

end Sys2Proof.Machine
end

section
/-! PROOFS. Errors and faults (R301 to R308): a failed check of a command, or an illegal word, leaves all but ERRCODE
and BUSY as it was, a reset goes before a due completion, and a step stops only on a recorded fault. -/

namespace Sys2Proof.Machine

/-! ### Commands whose check fails -/

/-- Settles O39: both INITs look KEYLEN up, find no parameters and end with the error. -/
theorem initRejectsOtherKeyLengths : Obligations.InitRejectsOtherKeyLengths := by
  intro s i hi hlen
  obtain rfl | rfl := hi
  · have hparams := (aesParams_eq_none s.keylen).2 hlen
    simp [exec, execAesInit, hparams, raiseError]
  · have hparams := (camParams_eq_none s.keylen).2 hlen
    simp [exec, execCamInit, hparams, raiseError]

/-- Settles O40: each block command reads the VALID bit of its own cipher first. -/
theorem blockCommandsNeedTheirContext : Obligations.BlockCommandsNeedTheirContext := by
  refine fun s => ⟨fun hv i hi => ?_, fun hv i hi => ?_⟩
  · obtain rfl | rfl := hi
    · simp [exec, execAesEnc, hv, raiseError]
    · simp [exec, execAesDec, hv, raiseError]
  · obtain rfl | rfl := hi
    · simp [exec, execCamEnc, hv, raiseError]
    · simp [exec, execCamDec, hv, raiseError]

/-! ### Completions with an error -/

/-- The completion step of an illegal word ends with ILLEGAL_COMMAND (R105, R303). -/
theorem completionStep_of_illegal {s : State} (h : ∃ e, decode s.pending = .error e) :
    completionStep s = .next (raiseError .illegalCommand s) := by
  obtain ⟨e, he⟩ := h
  simp [completionStep, he]

/-- A command that leaves an error code has done nothing but raise it (R302). -/
theorem exec_eq_raiseError {i : Instr} {s t : State} (h : exec i s = .next t) (hcode : t.errcode ≠ .noError) :
    t = raiseError t.errcode s := by
  obtain ⟨e, rfl⟩ | ⟨-, nk, nr, -, rfl⟩ | ⟨-, nr, w, -, rfl⟩ | ⟨-, d, rfl⟩ := exec_next_cases h
  · rfl
  · exact absurd rfl hcode
  · exact absurd rfl hcode
  · exact absurd rfl hcode

/-- A completion that leaves an error code has done nothing but raise it (R302, R304). -/
theorem completionStep_eq_raiseError {s t : State} (h : completionStep s = .next t) (hcode : t.errcode ≠ .noError) :
    t = raiseError t.errcode s := by
  obtain rfl | ⟨i, -, hexec⟩ := completionStep_next h
  · rfl
  · exact exec_eq_raiseError hexec hcode

/-- Settles O25: the engine's step is the completion step, and the word decodes to no command. -/
theorem illegalWordCompletesWithIllegalCommand : Obligations.IllegalWordCompletesWithIllegalCommand := by
  intro s hnext hword
  exact (step_of_engineNext hnext).trans (completionStep_of_illegal ((decode_eq_error_iff s.pending).2 hword))

/-- Settles O27: the completion carries the code of R305, and one with an error code only raises it. -/
theorem errorsChangeOnlyErrcodeAndBusy : Obligations.ErrorsChangeOnlyErrcodeAndBusy := by
  intro s hnext hcode
  obtain ⟨t, hcomp, hcodeEq⟩ := completionStep_errcode s
  have ht : t = raiseError (completionCode s) s := by
    rw [← hcodeEq] at hcode ⊢
    exact completionStep_eq_raiseError hcomp hcode
  have herror : (regValue t .status).getLsbD 1 = decide (t.errcode ≠ .noError) := (packStatus_fields ..).2.1
  refine ⟨t, ht, (step_of_engineNext hnext).trans hcomp, ?_⟩
  rw [herror, hcodeEq]
  exact decide_eq_true hcode

/-! ### Reset before completion -/

/-- Where reset comes next, the step is the reset, whatever else is due (R305, R330). -/
theorem step_of_reset {s : State} {rest : List HostOp} (hi : s.inputs = .reset :: rest) :
    step s = .next (resetBlock { tickLatency s with inputs := rest }) := by
  have hreset : resetNext s = true := (resetNext_iff s).2 ⟨rest, hi⟩
  simp [step, hreset, hostStep_cons hi, performOp]

/-- After a reset every register reads its reset value (R330). -/
theorem regValue_resetBlock (s : State) (r : Reg) : regValue (resetBlock s) r = regValue State.reset r := rfl

/-- Settles O26: the completion carries the code of R305, and a reset is taken before it is looked at. -/
theorem completionReportsTheFirstFailedCheck : Obligations.CompletionReportsTheFirstFailedCheck := by
  refine fun s => ⟨fun hnext => ?_, fun rest hi _ _ => ?_⟩
  · obtain ⟨t, hcomp, hcode⟩ := completionStep_errcode s
    exact ⟨t, (step_of_engineNext hnext).trans hcomp, hcode, (completionStep_frame hcomp).1⟩
  · exact ⟨_, step_of_reset hi, rfl, rfl, rfl, regValue_resetBlock _⟩

/-! ### Faults -/

/-- A recorded fault stops every step but a reset (R308). -/
theorem step_of_recordedFault {s : State} {f : Fault} (hr : resetNext s = false)
    (hf : recordedFault s.faults = some f) : step s = .fault f := by
  simp [step, hr, hf]

/-- With neither a reset next nor a fault recorded, the step is a completion or the outside's, and both move on. -/
theorem step_next_of_faultFree {s : State} (hr : resetNext s = false) (hf : s.FaultFree) : ∃ t, step s = .next t := by
  cases he : engineReady s with
  | true =>
    have hnext : engineNext s = true := by simp [engineNext, he, hr, hf]
    obtain ⟨t, hcomp, -⟩ := completionStep_errcode s
    exact ⟨t, (step_of_engineNext hnext).trans hcomp⟩
  | false => exact ⟨_, step_of_outside hr hf he⟩

/-- A step either moves on, at a reset or without a recorded fault, or stops on the fault that is recorded. -/
theorem step_next_or_fault (s : State) :
    ((resetNext s = true ∨ s.FaultFree) ∧ ∃ t, step s = .next t) ∨
    (¬ (resetNext s = true ∨ s.FaultFree) ∧ ∃ f, recordedFault s.faults = some f ∧ step s = .fault f) := by
  cases hr : resetNext s with
  | true =>
    obtain ⟨rest, hi⟩ := (resetNext_iff s).1 hr
    exact .inl ⟨.inl rfl, _, step_of_reset hi⟩
  | false =>
    cases hf : recordedFault s.faults with
    | none => exact .inl ⟨.inr hf, step_next_of_faultFree hr hf⟩
    | some f => exact .inr ⟨by simp [hf], f, rfl, step_of_recordedFault hr hf⟩

/-- Settles O28, by the two ways a step can end. -/
theorem stepStopsExactlyOnARecordedFault : Obligations.StepStopsExactlyOnARecordedFault := by
  intro s
  obtain ⟨hgo, t, hstep⟩ | ⟨hstop, f, hf, hstep⟩ := step_next_or_fault s
  · rw [hstep]
    exact ⟨⟨fun _ => hgo, fun _ => ⟨t, rfl⟩⟩, nofun, nofun⟩
  · rw [hstep]
    refine ⟨⟨nofun, fun hgo => absurd hgo hstop⟩, fun f' heq => ?_, nofun⟩
    rw [hf, Host.Outcome.fault.inj heq]

end Sys2Proof.Machine
end

section
/-! PROOFS. Reset and hazards: what a reset step leaves in every register (R330 to R333), and what a host write does
while BUSY = 1 (R74, R341). -/

namespace Sys2Proof.Machine

/-! ### Writes while BUSY = 1 -/

/-- Where a supported write comes next, the step is that write in a state that differs in the countdown and the inputs
alone. -/
theorem step_write {s : State} {off : Nat} {v : Word} {rest : List HostOp} (h : HostTurn s (.write 32 off v) rest)
    (hw : accessWellFormed 32 off = true) :
    step s = .next (writeReg (s.withModelFields (tickLatency s).latLeft s.draws rest s.observed) off v) := by
  simp only [step_of_hostTurn_withModelFields h, performOp, hostWrite, hw, if_true]

/-- A write to CMD, KEYLEN, KEYk or DINk while BUSY = 1 records its fault alone (R341). -/
theorem writeReg_hostWritable_busy {s : State} {off : Nat} {r : Reg} (hb : s.busy = true) (hat : regAt off = some r)
    (hr : r.hostWritable = true) (v : Word) : writeReg s off v = recordFault .writeWhileBusy s := by
  simp [writeReg, hat, hb, hr]

/-- Settles O8: the step is the write, which records its fault or is ignored as the offset names a writable register or
not. -/
theorem writeWhileBusyRecordsItsFault : Obligations.WriteWhileBusyRecordsItsFault := by
  intro s rest off v hoff hlt hturn hb
  have hstep := step_write hturn (accessWellFormed_of_aligned hoff hlt)
  simp only [← hostWritable_iff]
  by_cases hwritable : ∃ r, regAt off = some r ∧ r.hostWritable = true
  · obtain ⟨r, hat, hr⟩ := hwritable
    rw [writeReg_hostWritable_busy ((withModelFields_busy s _ _ _ _).trans hb) hat hr] at hstep
    exact ⟨_, hstep, sameRegisters_recordFault .writeWhileBusy _, ⟨rfl, rfl, rfl⟩, rfl, rfl, rfl, fun _ => rfl,
      fun hnone => absurd ⟨r, hat, hr⟩ hnone⟩
  · have hignored (r : Reg) (hat : regAt off = some r) : r.hostWritable = false :=
      Bool.eq_false_iff.2 fun hr => hwritable ⟨r, hat, hr⟩
    rw [writeReg_ignored hignored] at hstep
    exact ⟨_, hstep, sameRegisters_withModelFields s _ _ _ _, ⟨rfl, rfl, rfl⟩, rfl, rfl, rfl,
      fun hsome => absurd hsome hwritable, fun _ => rfl⟩

/-! ### Reset -/

/-- Every register but BLOCKSIZE and the ROM entries reads 0 after reset (R331). -/
theorem regValue_reset_eq_zero {r : Reg} (hrom : r.isRom = false) (hne : r ≠ .blocksize) :
    regValue State.reset r = 0#32 := by
  cases r
  case cmd | status | keylen | aesNr | camNr => rfl
  case key | din | dout | aesRk | camKm | camSk => simp [regValue, State.reset]
  case blocksize => exact absurd rfl hne
  all_goals cases hrom

/-- A ROM entry reads the same in every state (R44). -/
theorem regValue_of_isRom {r : Reg} (hrom : r.isRom = true) (s t : State) : regValue t r = regValue s r := by
  cases r
  case aesSbox | aesInvSbox | gfMul2 | camSbox1 | camSbox2 | camSbox3 | camSbox4 | aesRcon | camSigma => rfl
  all_goals cases hrom

/-- Settles O1: the step is `resetBlock`, after which every register reads as in the state after reset. -/
theorem resetStepGivesResetValues : Obligations.ResetStepGivesResetValues := by
  intro s hreset
  obtain ⟨rest, hi⟩ := (resetNext_iff s).1 hreset
  have hzero {r : Reg} (hrom : r.isRom = false) (hne : r ≠ .blocksize) :
      regValue (resetBlock { tickLatency s with inputs := rest }) r = 0#32 :=
    (regValue_resetBlock _ r).trans (regValue_reset_eq_zero hrom hne)
  refine ⟨_, step_of_reset hi, rfl, rfl, rfl, rfl, hzero rfl nofun, hzero rfl nofun, hzero rfl nofun, rfl,
    fun _ => hzero rfl nofun, fun _ => hzero rfl nofun, fun _ => hzero rfl nofun, hzero rfl nofun, hzero rfl nofun,
    fun _ => hzero rfl nofun, fun _ => hzero rfl nofun, fun _ => hzero rfl nofun,
    fun r hrom => regValue_of_isRom hrom s _, ?faults, ?inputs⟩
  case faults => exact tickLatency_faults s
  case inputs => simp [hi]

/-- Both context invariants hold after a reset step, since its contexts are those of the state after reset (R332). -/
theorem contextInv_resetBlock (s : State) : ContextInv (resetBlock s) :=
  ⟨(aesInv_of_same ⟨rfl, rfl, rfl⟩).1 contextInv_reset.1, (camInv_of_same ⟨rfl, rfl, rfl, rfl⟩).1 contextInv_reset.2⟩

/-- Settles O2: both reset contexts are not valid, and an invalid context has no schedule to speak of. -/
theorem resetEstablishesContextInvariants : Obligations.ResetEstablishesContextInvariants :=
  ⟨⟨rfl, rfl, contextInv_reset, (scheduleInv_iff _).2 ⟨nofun, nofun⟩⟩, fun s => ⟨rfl, rfl, contextInv_resetBlock s⟩⟩

end Sys2Proof.Machine
end
